-- ==== Sys2Proof/Word.lean ====
section
/-!
DEFINITION. The data model of the core: Word, Block, KeyArray and Direction (00_scope.md R14; the
widths of R6).
-/

namespace Sys2Proof

/-- A Word: an unsigned 16-bit value (R14, `WORD_BITS`). -/
abbrev Word := BitVec 16

/-- A Block: an unsigned 32-bit value, two Words (R8, R14, `BLOCK_BITS`). -/
abbrev Block := BitVec 32

/-- A KeyArray: exactly 8 Words, index 0..7 (R14, `KEY_WORDS`). -/
abbrev KeyArray := Vector Word 8

/-- A RoundIndex: an integer 0..31 (R14, `IDX_BITS`). -/
abbrev RoundIndex := BitVec 5

/-- Direction, "enum {Encrypt, Decrypt}" (R14); its code is in Decode (R45). -/
inductive Direction where
  | encrypt
  | decrypt
  deriving DecidableEq, Repr, Inhabited

end Sys2Proof
end

