-- ==== Sys2Proof/Syntax.lean ====
section
/-!
DEFINITION. The seven operations of spec/opcode_table.json (30_encoding.md R47, R49, R58) and the
lines of a trace (R55).
-/

namespace Sys2Proof

/-- One constructor per row of the opcode table. The operands of an operation are pin levels and
registers, never part of its word (R46, R48). A constructor carries the bits of its control word that
the row does not examine (`x` in R49), so that a word and its instruction determine each other; no
meaning reads them. -/
inductive Instr where
  /-- `ROUND.ENC` (R47, R74): one forward round of `simon64_round`. -/
  | roundEnc
  /-- `ROUND.DEC` (R47, R75, R77): one Decrypt round of `simon64_round`. -/
  | roundDec
  /-- `RESET`, control word `1xxx` (R49, R113). -/
  | reset (busy start : Bool) (dir : Direction)
  /-- `STEP`, control word `01xx` (R49, R89). -/
  | step (start : Bool) (dir : Direction)
  /-- `ENC`, control word `0010` (R49, R86). -/
  | enc
  /-- `DEC`, control word `0011` (R49, R87). -/
  | dec
  /-- `NOP`, control word `000x` (R49, R84). -/
  | nop (dir : Direction)
  deriving DecidableEq, Repr

/-- One line of a trace (R55): an operation with the levels the host puts on the pins during it. A
key is written as a list; WellFormed asks that it has exactly 8 words (R52). -/
inductive TraceLine where
  | reset (start : Bool) (dir : Direction) (block : Block) (key : List Word)
  | nop (dir : Direction) (block : Block) (key : List Word)
  | enc (block : Block) (key : List Word)
  | dec (block : Block) (key : List Word)
  | step (start : Bool) (dir : Direction) (block : Block) (key : List Word)
  | roundEnc (state : Block) (rk : Word)
  | roundDec (state : Block) (rk : Word)
  deriving DecidableEq, Repr

end Sys2Proof
end

