-- ==== Sys2Proof/WellFormed.lean ====
section
/-!
DEFINITION. Which instructions and trace lines are well formed (30_encoding.md R52, R54).
-/

namespace Sys2Proof

/-- Every instruction is well formed: "There is no illegal, reserved, hint or custom encoding in
either format, and no operand value is illegal" (R54); the types hold the widths. -/
def Instr.wf : Instr → Bool
  | .roundEnc => true
  | .roundDec => true
  | .reset _ _ _ => true
  | .step _ _ => true
  | .enc => true
  | .dec => true
  | .nop _ => true

/-- A written key has exactly 8 words: "a KeyArray of another length cannot be presented" (R52). -/
def keyListWf (key : List Word) : Bool := key.length == 8

/-- A trace line is well formed when the key it writes has exactly 8 words (R52, R55). -/
def TraceLine.wf : TraceLine → Bool
  | .reset _ _ _ key => keyListWf key
  | .nop _ _ key => keyListWf key
  | .enc _ key => keyListWf key
  | .dec _ key => keyListWf key
  | .step _ _ _ key => keyListWf key
  | .roundEnc _ _ => true
  | .roundDec _ _ => true

end Sys2Proof
end

