-- ==== Sys2Proof/Decode.lean ====
section
/-!
DEFINITION. The direction code (30_encoding.md R45), Format R (R46, R47), Format C (R48, R49, R50),
the encoder of both, and the host's table-word entry.
-/

namespace Sys2Proof

/-- The two formats, one per block (R46, R48). -/
inductive Format where
  | r
  | c
  deriving DecidableEq, Repr

/-- Why a number is no word of a format. Raised by `decode` only; safe, since it admits less. -/
inductive DecodeReject where
  /-- The number has a bit above bit 0, and Format R is 1 bit wide (R46). -/
  | widerThanFormatR
  /-- The number has a bit above bit 3, and Format C is 4 bits wide (R48). -/
  | widerThanFormatC
  deriving DecidableEq, Repr

/-- Width in bits of a format's word (R46, R48). -/
def formatWidth : Format → Nat
  | .r => 1
  | .c => 4

/-- The direction code: 0 is Encrypt, 1 is Decrypt (R45). -/
def dirBit : Direction → Bool
  | .encrypt => false
  | .decrypt => true

/-- The Direction a code bit names (R45). -/
def dirOfBit : Bool → Direction
  | false => .encrypt
  | true => .decrypt

/-- Format R: the one bit `d` (R46, R47). -/
def decodeRound (d : BitVec 1) : Instr :=
  if d &&& 0b1#1 = 0b0#1 then .roundEnc else .roundDec

/-- Format C: the control word `rst : busy : start : dir` selects one row by `(w & mask) = match`
(R49, R58). The rows are disjoint and cover every word (R50), so the last one, `NOP`, is what the
others leave: `000x`. -/
def decodeControl (w : BitVec 4) : Instr :=
  if w &&& 0b1000#4 = 0b1000#4 then .reset (w.getLsbD 2) (w.getLsbD 1) (dirOfBit (w.getLsbD 0))
  else if w &&& 0b1100#4 = 0b0100#4 then .step (w.getLsbD 1) (dirOfBit (w.getLsbD 0))
  else if w &&& 0b1111#4 = 0b0010#4 then .enc
  else if w &&& 0b1111#4 = 0b0011#4 then .dec
  else .nop (dirOfBit (w.getLsbD 0))

/-- The decoder of either format, on any number: a number wider than the format is no word of it. -/
def decode (f : Format) (w : Nat) : Except DecodeReject Instr :=
  match f with
  | .r => if w < 2 then .ok (decodeRound (BitVec.ofNat 1 w)) else .error .widerThanFormatR
  | .c => if w < 16 then .ok (decodeControl (BitVec.ofNat 4 w)) else .error .widerThanFormatC

/-- The four bits of a control word, `rst` in bit 3 and `dir` in bit 0 (R48). -/
def controlBits (rst busy start : Bool) (dir : Direction) : BitVec 4 :=
  BitVec.ofBool rst ++ BitVec.ofBool busy ++ BitVec.ofBool start ++ BitVec.ofBool (dirBit dir)

/-- The format of an instruction's word (R47, R49). -/
def formatOf : Instr → Format
  | .roundEnc => .r
  | .roundDec => .r
  | .reset _ _ _ => .c
  | .step _ _ => .c
  | .enc => .c
  | .dec => .c
  | .nop _ => .c

/-- The word of an instruction in its format, as a number with bit 0 least (R47, R49). -/
def encode : Instr → Nat
  | .roundEnc => 0b0
  | .roundDec => 0b1
  | .reset busy start dir => (controlBits true busy start dir).toNat
  | .step start dir => (controlBits false true start dir).toNat
  | .enc => (controlBits false false true .encrypt).toNat
  | .dec => (controlBits false false true .decrypt).toNat
  | .nop dir => (controlBits false false false dir).toNat

/-- The format a table word is read in. The table's rows are 1 and 4 bits wide, and their words
overlap: 0 and 1 are words of both formats. A width below a byte says which; a width in whole bytes
no longer does, and then the narrowest format that holds the word is taken: DESIGN CHOICE (log 9). -/
def tableFormat (nbits w : Nat) : Format :=
  if nbits ≤ 1 then .r
  else if nbits < 8 then .c
  else if w < 2 then .r
  else .c

/-- The instruction the decoder reads from the bits `w` of a table row of `nbits` bits. -/
def decodeTableWord (nbits w : Nat) : Option Instr :=
  (decode (tableFormat nbits w) w).toOption

end Sys2Proof
end

