-- ==== Sys2Proof/Config.lean ====
section
/-!
DEFINITION. What the implementation fixes (00_scope.md R6, R7) and the free values, which the spec
leaves open (10_state.md R24, R28; 93_implementation_defined.md U2, U3).
-/

namespace Sys2Proof

/-- `DEC_MODE` (R7): what the Decrypt direction means. -/
inductive DecMode where
  /-- The hardware as observed: Decrypt returns its input (R75). The spec's default. -/
  | literal
  /-- The exact inverse round (R77). -/
  | intended
  deriving DecidableEq, Repr, Inhabited

/-- `RESET_KIND` (R6, R117): open, and no rule depends on it. -/
inductive ResetKind where
  | synchronous
  | asynchronous
  deriving DecidableEq, Repr, Inhabited

/-- The parameters of R6, in one record, "so that an audit of the source code changes one place". -/
structure Params where
  blockBits : Nat
  wordBits : Nat
  keyWords : Nat
  rounds : Nat
  idxBits : Nat
  rotH1 : Int
  rotH2 : Int
  rotL1 : Int
  rotL2 : Int
  rotF1 : Int
  rotF2 : Int
  rotF3 : Int
  decModeDefault : DecMode
  resetKind : ResetKind
  stepCycles : Nat

namespace Config

/-- `RESET_KIND` is left open by R117: DESIGN CHOICE (log 8), an unknown constant that nothing reads. -/
opaque resetKind : ResetKind

/-- The values this hardware takes (R6). -/
def params : Params where
  blockBits := 32
  wordBits := 16
  keyWords := 8
  rounds := 32
  idxBits := 5
  rotH1 := -3
  rotH2 := -8
  rotL1 := -3
  rotL2 := -8
  rotF1 := 1
  rotF2 := 8
  rotF3 := 2
  decModeDefault := .literal
  resetKind := resetKind
  stepCycles := 1

/-- Free value of a Block register that holds no value (R24, R28): DESIGN CHOICE (log 5). -/
opaque freeBlock : Nat → Block

/-- Free value of a key register that holds no value (R24, R28): DESIGN CHOICE (log 5). -/
opaque freeWord : Nat → Word

/-- Free value of `DIRR` when it holds no value (R24, R28): DESIGN CHOICE (log 5). -/
opaque freeDirection : Nat → Direction

/-- Free value of `IDX` before the first RESET (R28, R116): DESIGN CHOICE (log 11). -/
opaque freeIndex : Nat → RoundIndex

/-- Free value of a status bit before the first RESET (R28, R116): DESIGN CHOICE (log 11). -/
opaque freeBit : Nat → Bool

end Config

end Sys2Proof
end

