-- ==== Sys2Proof/Machine/State.lean ====
section
/-!
DEFINITION. The state of the machine (10_state.md R15 to R31), the reasons a step can stop, and the
state right after reset (R28).
-/

namespace Sys2Proof.Machine

/-- Why the model stops. The hardware itself raises nothing (60_exceptions.md R102, R103); these two
are the faults of the model that R112 asks for. -/
inductive Fault where
  /-- Raised by `fetch`, and so by `step`: a sequencer step with `rst = 0` before the first RESET,
  where the control word is undefined and there is no step (R48, R116, U3). Safe: the model admits
  less than the hardware. -/
  | noTransitionBeforeReset
  /-- Raised by the host's reads of output pins (`readBlockOut`, `readBusy`, `readDone`), never by
  `step`: the pin shows no value (R25, R28, R112, U1). Safe: no claim can rest on such a value. -/
  | pinHasNoValue
  deriving DecidableEq, Repr

/-- Why the model has no meaning for an instruction. -/
inductive Refusal where
  /-- Raised by an arm of `exec` whose instruction has no meaning yet; no arm of this model does.
  Safe. -/
  | notModelled (mnemonic : String)
  deriving DecidableEq, Repr

/-- The input pins of `simon64_cipher_loop` (R23); `clk` is not modelled (log 18). -/
structure LoopPins where
  rst : Bool
  start : Bool
  dir : Direction
  blockIn : Block
  keyIn : KeyArray
  deriving DecidableEq, Repr

/-- The input pins of `simon64_round` (R15). -/
structure RoundPins where
  stateIn : Block
  roundKey : Word
  dir : Direction
  deriving DecidableEq, Repr

/-- Which block a line of the host's trace addresses (R55): DESIGN CHOICE of form (log 3). -/
inductive Target where
  | loop
  | round
  deriving DecidableEq, Repr

/-- One line of the host's trace as pin levels: a transition of the sequencer or one evaluation of
`simon64_round` (R55). -/
inductive Drive where
  | loop (pins : LoopPins)
  | round (pins : RoundPins)
  deriving DecidableEq, Repr

/-- The machine. The first six fields are all the state of the core (R22). -/
structure State where
  /-- `S`, 32 bits (R16); drives `block_out`. -/
  sReg : Block
  /-- `IDX`, 5 bits (R17). -/
  idx : RoundIndex
  /-- `BUSY` (R18). -/
  busy : Bool
  /-- `DONE` (R19). -/
  done : Bool
  /-- `DIRR` (R20). -/
  dirr : Direction
  /-- `KR[0..7]` (R21), the same storage as the key word space (R30, R32). -/
  kr : KeyArray
  /-- Whether `S`, `DIRR` and `KR` hold values (R24, R28): they are written together by ENC and DEC
  and lost together by RESET (log 6). -/
  holdsOperands : Bool
  /-- Whether a RESET has been taken since power-up (R28, R116; log 6). -/
  wasReset : Bool
  /-- `DEC_MODE` of this instance (R7, R27): no transition writes it (log 7). -/
  decMode : DecMode
  /-- The levels on the input pins of `simon64_cipher_loop` (R23; log 1). -/
  loopPins : LoopPins
  /-- The levels on the input pins of `simon64_round` (R15; log 3). -/
  roundPins : RoundPins
  /-- The level on the pin `state_out` of `simon64_round` (R15; log 3). -/
  stateOut : Block
  /-- Which block the line now on the pins addresses; the model's own (log 3). -/
  target : Target
  /-- The lines the host puts on the pins in later steps; the model's own (log 1). -/
  trace : List Drive
  /-- How many free values have been drawn; the model's own (log 5). -/
  draws : Nat
  deriving DecidableEq, Repr

/-- Every key word 0. -/
def zeroKey : KeyArray := #v[0, 0, 0, 0, 0, 0, 0, 0]

/-- All pins of `simon64_cipher_loop` low: DESIGN CHOICE (log 20). -/
def lowLoopPins : LoopPins where
  rst := false
  start := false
  dir := .encrypt
  blockIn := 0
  keyIn := zeroKey

/-- All input pins of `simon64_round` low: DESIGN CHOICE (log 20). -/
def lowRoundPins : RoundPins where
  stateIn := 0
  roundKey := 0
  dir := .encrypt

/-- The machine right after RESET (R28): `BUSY`, `DONE` and `IDX` are 0, and `S`, `DIRR`, `KR` hold
no value. The bits stored in the last three are 0: DESIGN CHOICE (log 4), and `holdsOperands` says
that they are no values. `state_out` is `round(0, 0, Encrypt) = 0` (R74). -/
def State.reset : State where
  sReg := 0
  idx := 0
  busy := false
  done := false
  dirr := .encrypt
  kr := zeroKey
  holdsOperands := false
  wasReset := true
  decMode := Config.params.decModeDefault
  loopPins := lowLoopPins
  roundPins := lowRoundPins
  stateOut := 0
  target := .loop
  trace := []
  draws := 0

/-- The machine at power-up, before any RESET: no register holds a value (R28, R116), so each holds a
free value here (log 11). The pins and the configuration are as in `State.reset`. -/
def State.powerUp : State :=
  { State.reset with
    sReg := Config.freeBlock 0
    idx := Config.freeIndex 0
    busy := Config.freeBit 0
    done := Config.freeBit 1
    dirr := Config.freeDirection 0
    kr := Vector.ofFn fun a => Config.freeWord a.val
    wasReset := false
    draws := 8 }

end Sys2Proof.Machine
end

