-- ==== Sys2Proof/Machine/Flags.lean ====
section
/-!
DEFINITION. Everything that writes the two status bits `BUSY` and `DONE` (10_state.md R18, R19). The
hardware has no other flag (R22).
-/

namespace Sys2Proof.Machine

/-- A run begins (R85): `BUSY <- 1`, `DONE <- 0`. -/
def flagsBeginRun (s : State) : State := { s with busy := true, done := false }

/-- A run ends with its 32nd STEP (R89): `BUSY <- 0`, `DONE <- 1`. -/
def flagsEndRun (s : State) : State := { s with busy := false, done := true }

/-- RESET (R113): `BUSY <- 0`, `DONE <- 0`. -/
def flagsClear (s : State) : State := { s with busy := false, done := false }

end Sys2Proof.Machine
end

