-- ==== Sys2Proof/Machine/Operands.lean ====
section
/-!
DEFINITION. Operand forms and word operations: the halves of a Block (40_word_primitives.md R59,
R60), rotation (R63, R64), the unconnected function `f` (R67), the key word selected by an address
(20_memory.md R33), the key index (42_simon64_cipher_loop.md R88), and the packings of R37 and R52.
XOR and AND (R61, R62) are the bitwise operations of Word itself.
-/

namespace Sys2Proof.Machine

/-- `hi = s[31:16]` (R59). -/
def hiWord (b : Block) : Word := b.extractLsb' 16 16

/-- `lo = s[15:0]` (R59). -/
def loWord (b : Block) : Word := b.extractLsb' 0 16

/-- `split(s)` (R59). -/
def split (b : Block) : Word × Word := (hiWord b, loWord b)

/-- `join(h, l)`, the Block `h : l` (R60). -/
def join (h l : Word) : Block := h ++ l

/-- The rotation amount reduced modulo 16 to the non-negative remainder (R63, R64). -/
def rotAmount (n : Int) : Nat := (n % 16).toNat

/-- `rotl16(x, n)`: bit `i` of `x` goes to bit `(i + n) mod 16` (R63). -/
def rotl16 (x : Word) (n : Int) : Word :=
  (x <<< rotAmount n) ||| (x >>> (16 - rotAmount n))

/-- `f(lo)` (R67). It drives no output and no register (R76; log 15): no other definition of the model
uses it. -/
def fWord (lo : Word) : Word :=
  (rotl16 lo Config.params.rotF1 &&& rotl16 lo Config.params.rotF2) ^^^ rotl16 lo Config.params.rotF3

/-- Word `a mod 8` of a KeyArray: the reduction is part of the read (R33). -/
def keyAt (key : KeyArray) (a : Nat) : Word :=
  key[a % Config.params.keyWords]'(Nat.mod_lt a (by decide))

/-- `kidx(i, d)` (R88): the word address of the round key at round index `i`, before the reduction
modulo 8 that both lines share. -/
def kidx (m : DecMode) (i : Nat) (d : Direction) : Nat :=
  match d with
  | .encrypt => i % Config.params.keyWords
  | .decrypt =>
    match m with
    | .literal => i % Config.params.keyWords
    | .intended => (Config.params.rounds - 1 - i) % Config.params.keyWords

/-- A Block given as two words `[w0, w1]`: the first word is the low half (R37). -/
def blockOfWords (w0 w1 : Word) : Block := join w1 w0

/-- The word list of a Block, low half first (R37). -/
def wordsOfBlock (b : Block) : List Word := [loWord b, hiWord b]

/-- `key_flat`, the eight key ports drawn as one bus: `K[i]` at bits `16*i+15 : 16*i` (R52). -/
def keyFlat (key : KeyArray) : BitVec 128 :=
  keyAt key 7 ++ keyAt key 6 ++ keyAt key 5 ++ keyAt key 4 ++
    keyAt key 3 ++ keyAt key 2 ++ keyAt key 1 ++ keyAt key 0

/-- The KeyArray on a flat key bus (R52). -/
def keyOfFlat (bus : BitVec 128) : KeyArray := Vector.ofFn fun i => bus.extractLsb' (16 * i.val) 16

/-- Both halves of a Block rotated left by the same amount, `rot2(s, a)` (R80). -/
def rot2 (b : Block) (a : Int) : Block := join (rotl16 (hiWord b) a) (rotl16 (loWord b) a)

end Sys2Proof.Machine
end

