-- ==== Sys2Proof/Machine/RoundFunction.lean ====
section
/-!
DEFINITION. The round function of `simon64_round` in both directions (41_simon64_round.md R70 to R78).
-/

namespace Sys2Proof.Machine

/-- `new_hi = hi ^ rk ^ rotl16(lo, -3) ^ rotl16(lo, -8)`, both rotations of the pre-round `lo` (R72). -/
def newHi (hi lo rk : Word) : Word :=
  hi ^^^ rk ^^^ rotl16 lo Config.params.rotH1 ^^^ rotl16 lo Config.params.rotH2

/-- `new_lo = lo ^ new_hi ^ rotl16(new_hi, -3) ^ rotl16(hi, -8)`, the last rotation of the pre-round
`hi` (R73; 90_conflicts.md C2). -/
def newLo (hi lo nh : Word) : Word :=
  lo ^^^ nh ^^^ rotl16 nh Config.params.rotL1 ^^^ rotl16 hi Config.params.rotL2

/-- `fwd(s, rk)`: the wire `mixed` of R71, the forward round (R74). -/
def fwd (b : Block) (rk : Word) : Block :=
  let hi := hiWord b
  let lo := loWord b
  let nh := newHi hi lo rk
  join nh (newLo hi lo nh)

/-- `inv(s, rk)`: the exact inverse round (R77). -/
def invRound (b : Block) (rk : Word) : Block :=
  let nh := hiWord b
  let nl := loWord b
  let wireA := nh ^^^ rk
  let wireB := nl ^^^ nh ^^^ rotl16 nh (-3)
  let lo := rotl16 (wireB ^^^ rotl16 wireA (-8)) (-5)
  let hi := wireA ^^^ rotl16 lo (-3) ^^^ rotl16 lo (-8)
  join hi lo

/-- `round(s, k, d)` (R78); Encrypt does not depend on `DEC_MODE` (R7). The mix that a LITERAL Decrypt
computes and discards is left out (R76; log 15). -/
def simonRound (m : DecMode) (b : Block) (rk : Word) (d : Direction) : Block :=
  match d with
  | .encrypt => fwd b rk
  | .decrypt =>
    match m with
    | .literal => b
    | .intended => invRound b rk

end Sys2Proof.Machine
end

