-- ==== Sys2Proof/Machine/Ops.lean ====
section
/-!
DEFINITION. The named operations over registers, the key word space and the pins: `MemRead`,
`MemWrite`, the operand capture, `UNSPEC`, an evaluation of `simon64_round`, the control word and its
fetch, what the host puts on the pins, and what it reads from them. The hardware raises no exception
and has no trap entry or return (60_exceptions.md R102, R106, R107), so there is none here.
-/

namespace Sys2Proof.Machine

/-- `MemRead(a, 2)` on the key word space, whose storage is `KR` (R32): key word `a mod 8`, for any `a`;
it changes nothing and cannot fault (R33). -/
def memRead (space : KeyArray) (a : Nat) : Word := keyAt space a

/-- `MemWrite(a, 2, v)` on the key word space, `0 <= a <= 7` (R34). -/
def memWrite (space : KeyArray) (a : Fin 8) (v : Word) : KeyArray := space.set a v

/-- All eight `MemWrite`s of the operand capture, one per word (R34, R85). -/
def memWriteAll (space key : KeyArray) : KeyArray :=
  ([0, 1, 2, 3, 4, 5, 6, 7] : List (Fin 8)).foldl (fun sp a => memWrite sp a key[a]) space

/-- Operand capture, common to ENC and DEC (R85), with `DIRR <- d` (R86, R87). From now on `S`, `DIRR`
and `KR` hold values (R29, I3). -/
def captureOperands (d : Direction) (s : State) : State :=
  flagsBeginRun
    { s with
      kr := memWriteAll s.kr s.loopPins.keyIn
      sReg := s.loopPins.blockIn
      dirr := d
      idx := 0
      holdsOperands := true }

/-- `S`, `DIRR` and `KR` written with `UNSPEC` (R10, R113): each takes a free value, and none holds a
value (R24; log 5). -/
def forgetOperands (s : State) : State :=
  { s with
    sReg := Config.freeBlock s.draws
    dirr := Config.freeDirection s.draws
    kr := Vector.ofFn fun a => Config.freeWord (s.draws + a.val)
    holdsOperands := false
    draws := s.draws + 8 }

/-- One evaluation of `simon64_round` in direction `d` at the levels on its other pins (R15, R78). -/
def evaluateRound (d : Direction) (s : State) : State :=
  { s with
    roundPins := { s.roundPins with dir := d }
    stateOut := simonRound s.decMode s.roundPins.stateIn s.roundPins.roundKey d }

/-- The host puts levels on the pins of `simon64_cipher_loop` for the next transition (R110). -/
def present (p : LoopPins) (s : State) : State := { s with loopPins := p, target := .loop }

/-- The host puts levels on the pins of `simon64_round` for one evaluation; `state_out` follows them
with no memory (R15, R122). -/
def presentRound (p : RoundPins) (s : State) : State :=
  { s with
    roundPins := p
    stateOut := simonRound s.decMode p.stateIn p.roundKey p.dir
    target := .round }

/-- The host puts one line of its trace on the pins (R55). -/
def applyDrive (d : Drive) (s : State) : State :=
  match d with
  | .loop p => present p s
  | .round p => presentRound p s

/-- After a transition the host puts the next line of its trace on the pins. When the trace is over
the pins keep their levels and the sequencer keeps taking steps (R125): DESIGN CHOICE (log 2). -/
def hostAdvance (s : State) : State :=
  match s.trace with
  | [] => { s with target := .loop }
  | d :: rest => applyDrive d { s with trace := rest }

/-- `hostAdvance` after a transition that gave a next state. -/
def afterTransition (o : Host.Outcome State Fault Refusal) : Host.Outcome State Fault Refusal :=
  match o with
  | .next s => .next (hostAdvance s)
  | .fault r => .fault r
  | .refused r => .refused r

/-- The control word `CW = rst : BUSY : start : dir` (R48). -/
def controlWord (s : State) : BitVec 4 :=
  controlBits s.loopPins.rst s.busy s.loopPins.start s.loopPins.dir

/-- The Format R bit on the pin `dir` of `simon64_round` (R46). -/
def roundWord (s : State) : BitVec 1 := BitVec.ofBool (dirBit s.roundPins.dir)

/-- The operation the pins and `BUSY` select (R47, R49). Before the first RESET `BUSY` holds no value,
and the only control words defined are those with `rst = 1`, which do not depend on it (R48, R116). -/
def fetch (s : State) : Except Fault Instr :=
  match s.target with
  | .round => .ok (decodeRound (roundWord s))
  | .loop =>
    if s.wasReset || s.loopPins.rst then .ok (decodeControl (controlWord s))
    else .error .noTransitionBeforeReset

/-- A host read of `block_out`: `S` while `DONE = 1`, and no value otherwise (R24, R25, R120). -/
def readBlockOut (s : State) : Except Fault Block :=
  if s.wasReset && s.done && s.holdsOperands then .ok s.sReg else .error .pinHasNoValue

/-- A host read of the pin `busy`: `BUSY`, and no value before the first RESET (R23, R116). -/
def readBusy (s : State) : Except Fault Bool :=
  if s.wasReset then .ok s.busy else .error .pinHasNoValue

/-- A host read of the pin `done`: `DONE`, and no value before the first RESET (R23, R116). -/
def readDone (s : State) : Except Fault Bool :=
  if s.wasReset then .ok s.done else .error .pinHasNoValue

/-- A host read of the pin `state_out` of `simon64_round` (R15, R110). -/
def readStateOut (s : State) : Block := s.stateOut

/-- The state seen as a micro-instruction word, `BUSY : DIRR : IDX` (R57): a view of State that no
host can write. -/
def microWord (s : State) : BitVec 7 :=
  BitVec.ofBool s.busy ++ BitVec.ofBool (dirBit s.dirr) ++ s.idx

end Sys2Proof.Machine
end

