-- ==== Sys2Proof/Machine/CipherLoop.lean ====
section
/-!
DEFINITION. The transitions `NOP`, `ENC`, `DEC` and `STEP` of `simon64_cipher_loop`
(42_simon64_cipher_loop.md R84, R86, R87, R89). Their conditions on `rst`, `BUSY` and `start` are the
control word that selects them (30_encoding.md R49; log 17).
-/

namespace Sys2Proof.Machine

/-- `NOP`: nothing is written (R84). -/
def execNop (s : State) : Host.Outcome State Fault Refusal :=
  .next s

/-- `ENC`: the operand capture, and `DIRR <- 0` (R85, R86). -/
def execEnc (s : State) : Host.Outcome State Fault Refusal :=
  .next (captureOperands .encrypt s)

/-- `DEC`: the operand capture, and `DIRR <- 1` (R85, R87). -/
def execDec (s : State) : Host.Outcome State Fault Refusal :=
  .next (captureOperands .decrypt s)

/-- `STEP`: one round with the key word at `kidx(IDX, DIRR)`; at `IDX = 31` the run ends (R89). -/
def execStep (s : State) : Host.Outcome State Fault Refusal :=
  let rk := memRead s.kr (kidx s.decMode s.idx.toNat s.dirr)
  let t := { s with sReg := simonRound s.decMode s.sReg rk s.dirr }
  if s.idx.toNat = Config.params.rounds - 1 then .next (flagsEndRun { t with idx := 0 })
  else .next { t with idx := s.idx + 1 }

end Sys2Proof.Machine
end

