-- ==== Sys2Proof/Machine/ResetTransition.lean ====
section
/-!
DEFINITION. The transition `RESET` (70_reset_and_hazards.md R113).
-/

namespace Sys2Proof.Machine

/-- `RESET`: `BUSY`, `DONE` and `IDX` become 0; `S`, `DIRR` and `KR` hold no value (R113). It acts the
same before the first RESET (R116), and `simon64_round` is not affected. -/
def execReset (s : State) : Host.Outcome State Fault Refusal :=
  .next (forgetOperands (flagsClear { s with idx := 0, wasReset := true }))

end Sys2Proof.Machine
end

