-- ==== Sys2Proof/Machine/Round.lean ====
section
/-!
DEFINITION. The two operations of Format R, evaluations of `simon64_round` on its own pins
(41_simon64_round.md R74, R75, R77). They write no register of the core.
-/

namespace Sys2Proof.Machine

/-- `ROUND.ENC`: `state_out = fwd(state_in, round_key)` (R74). -/
def execRoundEnc (s : State) : Host.Outcome State Fault Refusal :=
  .next (evaluateRound .encrypt s)

/-- `ROUND.DEC`: `state_out = state_in` in `DEC_MODE = LITERAL` (R75), `inv(state_in, round_key)` in
`DEC_MODE = INTENDED` (R77). -/
def execRoundDec (s : State) : Host.Outcome State Fault Refusal :=
  .next (evaluateRound .decrypt s)

end Sys2Proof.Machine
end

