-- ==== Sys2Proof/Machine/Dispatch.lean ====
section
/-!
DEFINITION. One arm per row of the opcode table (30_encoding.md R58). The bits of a control word that
a row does not examine are not passed on (R49).
-/

namespace Sys2Proof.Machine

def exec (i : Instr) (s : State) : Host.Outcome State Fault Refusal :=
  match i with
  | .roundEnc => Sys2Proof.Machine.execRoundEnc s
  | .roundDec => Sys2Proof.Machine.execRoundDec s
  | .reset _ _ _ => Sys2Proof.Machine.execReset s
  | .step _ _ => Sys2Proof.Machine.execStep s
  | .enc => Sys2Proof.Machine.execEnc s
  | .dec => Sys2Proof.Machine.execDec s
  | .nop _ => Sys2Proof.Machine.execNop s

end Sys2Proof.Machine
end

