-- ==== Sys2Proof/Machine/Step.lean ====
section
/-!
DEFINITION. One step (42_simon64_cipher_loop.md R83): fetch the operation the pins and `BUSY` select,
run it, and let the host put its next line on the pins. `State.withFetchWord` places a table word
where the next step takes it (log 10).
-/

namespace Sys2Proof.Machine

/-- One step: exactly one transition, or one evaluation of `simon64_round` (R55, R83). -/
def step (s : State) : Host.Outcome State Fault Refusal :=
  match fetch s with
  | .ok i => afterTransition (exec i s)
  | .error r => .fault r

/-- `s` with the table word `w` where `step` takes its next operation (log 10). A Format C word sets
the pins `rst`, `start`, `dir` and the register `BUSY`, which together are the control word (R48), and
a word with `rst = 0` needs a RESET to have been taken (R116). A Format R word sets the pin `dir` of
`simon64_round`, whose output follows it (R15). -/
def State.withFetchWord (s : State) (nbits w : Nat) : State :=
  match tableFormat nbits w with
  | .r => presentRound { s.roundPins with dir := dirOfBit (w.testBit 0) } s
  | .c =>
    { present
        { s.loopPins with
          rst := w.testBit 3
          start := w.testBit 1
          dir := dirOfBit (w.testBit 0) } s with
      busy := w.testBit 2
      wasReset := s.wasReset || !w.testBit 3 }

end Sys2Proof.Machine
end

