-- ==== Sys2Proof/Machine/Cipher.lean ====
section
/-!
DEFINITION. The function level (00_scope.md R12): `encrypt`, `decrypt` and `mask`
(42_simon64_cipher_loop.md R92, R93, R96). The transition level does not use it.
-/

namespace Sys2Proof.Machine

/-- `s_j` of `encrypt(p, K)`: `s_0 = p`, `s_(i+1) = fwd(s_i, K[i mod 8])` (R92). -/
def encryptRounds (p : Block) (key : KeyArray) : Nat → Block
  | 0 => p
  | i + 1 => fwd (encryptRounds p key i) (keyAt key (i % 8))

/-- `encrypt(p, K) = s_32` (R92). -/
def encrypt (p : Block) (key : KeyArray) : Block := encryptRounds p key 32

/-- `t_j` of `decrypt(c, K)` in either mode (R93). -/
def decryptRounds (m : DecMode) (c : Block) (key : KeyArray) : Nat → Block
  | 0 => c
  | i + 1 =>
    match m with
    | .literal => decryptRounds m c key i
    | .intended => invRound (decryptRounds m c key i) (keyAt key ((31 - i) % 8))

/-- `decrypt(c, K) = t_32` (R93). -/
def decrypt (m : DecMode) (c : Block) (key : KeyArray) : Block := decryptRounds m c key 32

/-- `mask(K) = encrypt(0, K)` (R96). -/
def mask (key : KeyArray) : Block := encrypt 0 key

/-- `s_j` or `t_j` of the run in direction `d` (R94). -/
def runRounds (m : DecMode) (d : Direction) (b : Block) (key : KeyArray) (j : Nat) : Block :=
  match d with
  | .encrypt => encryptRounds b key j
  | .decrypt => decryptRounds m b key j

/-- `encrypt(p, K)` or `decrypt(c, K)`: what a run in direction `d` computes (R94). -/
def runResult (m : DecMode) (d : Direction) (b : Block) (key : KeyArray) : Block :=
  match d with
  | .encrypt => encrypt b key
  | .decrypt => decrypt m b key

/-- XOR of two KeyArrays word by word (R96). -/
def xorKey (key other : KeyArray) : KeyArray := Vector.ofFn fun i => key[i] ^^^ other[i]

end Sys2Proof.Machine
end

