-- ==== Sys2Proof/Machine/Trace.lean ====
section
/-!
DEFINITION. Traces (30_encoding.md R55): the pin levels a line means, the operation it encodes, the
pseudo-operations of R56, and a run driven line by line.
-/

namespace Sys2Proof.Machine

/-- The KeyArray a written key means; none unless it has exactly 8 words (R52, R55). -/
def keyOfList (key : List Word) : Option KeyArray :=
  if h : key.length = 8 then some ⟨key.toArray, by simpa using h⟩ else none

/-- The pin levels of one line (R55); none unless its key has exactly 8 words. -/
def lineDrive (line : TraceLine) : Option Drive :=
  match line with
  | .reset start dir block key => (keyOfList key).map fun k => .loop ⟨true, start, dir, block, k⟩
  | .nop dir block key => (keyOfList key).map fun k => .loop ⟨false, false, dir, block, k⟩
  | .enc block key => (keyOfList key).map fun k => .loop ⟨false, true, .encrypt, block, k⟩
  | .dec block key => (keyOfList key).map fun k => .loop ⟨false, true, .decrypt, block, k⟩
  | .step start dir block key => (keyOfList key).map fun k => .loop ⟨false, start, dir, block, k⟩
  | .roundEnc state rk => some (.round ⟨state, rk, .encrypt⟩)
  | .roundDec state rk => some (.round ⟨state, rk, .decrypt⟩)

/-- The operation a line encodes, "with `busy` supplied by the state" (R55). -/
def lineInstr (busy : Bool) (line : TraceLine) : Instr :=
  match line with
  | .reset start dir _ _ => .reset busy start dir
  | .nop dir _ _ => .nop dir
  | .enc _ _ => .enc
  | .dec _ _ => .dec
  | .step start dir _ _ => .step start dir
  | .roundEnc _ _ => .roundEnc
  | .roundDec _ _ => .roundDec

/-- Whether a line can be the next one in a state with this `BUSY` (R49): a RESET or a `ROUND.*` line
always, a STEP only in a run, the others only outside one. -/
def lineFits (busy : Bool) (line : TraceLine) : Bool :=
  match line with
  | .reset _ _ _ _ => true
  | .nop _ _ _ => !busy
  | .enc _ _ => !busy
  | .dec _ _ => !busy
  | .step _ _ _ _ => busy
  | .roundEnc _ _ => true
  | .roundDec _ _ => true

/-- A `STEP` line with every pin at 0 (R55). -/
def stepLine : TraceLine := .step false .encrypt 0 zeroKey.toList

/-- `RUN n` (R56): `n` lines `STEP`. -/
def runLines (n : Nat) : List TraceLine := List.replicate n stepLine

/-- `ENCRYPT p, K` (R56): an ENC line and 32 STEP lines. -/
def encryptLines (p : Block) (key : KeyArray) : List TraceLine :=
  .enc p key.toList :: runLines Config.params.rounds

/-- `DECRYPT c, K` (R56): a DEC line and 32 STEP lines. -/
def decryptLines (c : Block) (key : KeyArray) : List TraceLine :=
  .dec c key.toList :: runLines Config.params.rounds

/-- `WAIT` (R56): as many STEP lines as the run in progress still needs to `done = 1`. -/
def waitLines (s : State) : List TraceLine :=
  runLines (if s.busy then Config.params.rounds - s.idx.toNat else 0)

/-- The pin levels of a list of lines; none unless every line is well formed. -/
def lineDrives (lines : List TraceLine) : Option (List Drive) := lines.mapM lineDrive

/-- A run in which the host puts each line of a list on the pins in turn, one step a line (R55). -/
def runDrives (drives : List Drive) (s : State) : Host.Outcome State Fault Refusal :=
  match drives with
  | [] => .next s
  | d :: rest =>
    match step (applyDrive d s) with
    | .next t => runDrives rest t
    | .fault r => .fault r
    | .refused r => .refused r

/-- `s` with a list of lines loaded as the host's trace: the first on the pins, the others to come. -/
def loadTrace (drives : List Drive) (s : State) : State := hostAdvance { s with trace := drives }

end Sys2Proof.Machine
end

