-- ==== Sys2Proof/Safety.lean ====
section
/-!
DEFINITION. The terms claims are made in: the idle state (10_state.md R31), the invariants (R29), a
run in progress and its end (42_simon64_cipher_loop.md R91, R94), lines without a reset.
-/

namespace Sys2Proof.Machine

/-- The idle state, after the first RESET: `BUSY = 0` and `IDX = 0`; `DONE` is 0 or 1 and the other
registers hold anything or nothing (R31). -/
structure Idle (s : State) : Prop where
  wasReset : s.wasReset = true
  notBusy : s.busy = false
  atZero : s.idx = 0

/-- `state_out` is the function of its inputs (R15, R78). -/
def RoundSettled (s : State) : Prop :=
  s.stateOut = simonRound s.decMode s.roundPins.stateIn s.roundPins.roundKey s.roundPins.dir

/-- The invariants of R29 that speak of one state: I1, I2, I3, the first half of I4 (I5 is the width
of `IDX`), each "from the first RESET on"; before it no register holds a value (R28); and
`state_out` follows its inputs at all times (R15). -/
structure CoreInv (s : State) : Prop where
  notBusyAndDone : s.wasReset = true → ¬(s.busy = true ∧ s.done = true)
  idleAtZero : s.wasReset = true → s.busy = false → s.idx = 0
  busyHolds : s.wasReset = true → s.busy = true → s.holdsOperands = true
  doneHolds : s.wasReset = true → s.done = true → s.holdsOperands = true
  nothingHeld : s.wasReset = false → s.holdsOperands = false
  roundSettled : RoundSettled s

/-- A run of direction `d` on the operands `b` and `key`, after `j` of its STEPs (R91, R94). -/
structure InRun (d : Direction) (b : Block) (key : KeyArray) (j : Nat) (s : State) : Prop where
  early : j < 32
  wasReset : s.wasReset = true
  busy : s.busy = true
  notDone : s.done = false
  holds : s.holdsOperands = true
  index : s.idx = BitVec.ofNat 5 j
  direction : s.dirr = d
  keyKept : s.kr = key
  value : s.sReg = runRounds s.decMode d b key j

/-- The end of a run of direction `d` on the operands `b` and `key` (R91, R94). -/
structure RunDone (d : Direction) (b : Block) (key : KeyArray) (s : State) : Prop where
  wasReset : s.wasReset = true
  notBusy : s.busy = false
  done : s.done = true
  holds : s.holdsOperands = true
  index : s.idx = 0
  direction : s.dirr = d
  keyKept : s.kr = key
  value : s.sReg = runResult s.decMode d b key

/-- The pins that request a run of direction `d` on the operands `b` and `key` (R110). -/
def requestPins (d : Direction) (b : Block) (key : KeyArray) : LoopPins where
  rst := false
  start := true
  dir := d
  blockIn := b
  keyIn := key

/-- A line for the sequencer with `rst = 0` and anything on the other pins. -/
def noResetLine (d : Drive) : Bool :=
  match d with
  | .loop p => !p.rst
  | .round _ => false

/-- The step about to be taken is a transition of the sequencer with `rst = 0`. -/
def SequencerTurn (s : State) : Prop := s.target = .loop ∧ s.loopPins.rst = false

/-- The same six registers (R22), each of the two states after a RESET. -/
structure SameRegisters (s t : State) : Prop where
  sReg : s.sReg = t.sReg
  idx : s.idx = t.idx
  busy : s.busy = t.busy
  done : s.done = t.done
  dirr : s.dirr = t.dirr
  kr : s.kr = t.kr

/-- The six registers and what they hold are unchanged, and so is the configuration (R22, R24, R27). -/
structure CoreKept (s t : State) : Prop where
  registers : SameRegisters s t
  holdsOperands : t.holdsOperands = s.holdsOperands
  wasReset : t.wasReset = s.wasReset
  decMode : t.decMode = s.decMode

end Sys2Proof.Machine
end

