-- ==== Sys2Proof/Certificates/Slice0/Obligations.lean ====
section
/-!
DEFINITION. The statements of this model for the provers, one definition each; OBLIGATIONS.json lists
them. Rules R<n> are those of spec/. A statement that is no rule's own words says so.
-/

open Sys2Proof Sys2Proof.Machine

/-! ### Word operations (40_word_primitives.md) -/

/-- R63: bit `(i + m) mod 16` of `rotl16(x, n)` is bit `i` of `x`, with `m = n mod 16`; equivalently
`x` for `m = 0` and the two shifts of a value wide enough for `1 <= m <= 15`; and the result has as
many 1 bits as `x`. -/
def Obligations.RotationMovesEachBit : Prop :=
  ∀ (x : Word) (n : Int),
    (∀ i : Nat, i < 16 →
      (rotl16 x n).getLsbD ((i + (n % 16).toNat) % 16) = x.getLsbD i) ∧
    (n % 16 = 0 → rotl16 x n = x) ∧
    (∀ m : Nat, 1 ≤ m → m ≤ 15 → n % 16 = (m : Int) →
      rotl16 x n =
        ((x.setWidth 32 <<< m) ||| (x.setWidth 32 >>> (16 - m))).extractLsb' 0 16) ∧
    (List.range 16).countP (fun i => (rotl16 x n).getLsbD i) =
      (List.range 16).countP (fun i => x.getLsbD i)

/-- R64: the amounts -3 and -8 are reduced to the non-negative remainders 13 and 8: a rotate right by
3, and the exchange of the two bytes. -/
def Obligations.NegativeAmountsAreNonNegativeRemainders : Prop :=
  (-3 : Int) % 16 = 13 ∧ (-8 : Int) % 16 = 8 ∧
  ∀ x : Word,
    rotl16 x (-3) = rotl16 x 13 ∧ rotl16 x (-3) = x.rotateRight 3 ∧
    rotl16 x (-8) = rotl16 x 8 ∧ rotl16 x (-8) = x.extractLsb' 0 8 ++ x.extractLsb' 8 8

/-- R65: the two laws of rotation the source states. -/
def Obligations.RotationByComplementUndoes : Prop :=
  ∀ x : Word, rotl16 x 0 = x ∧
    ∀ n : Int, 0 ≤ n → n ≤ 15 → rotl16 (rotl16 x n) (16 - n) = x

/-- R66: the further laws of rotation, for all words and all integer amounts, its corner cases and
its examples. -/
def Obligations.RotationAlgebra : Prop :=
  (∀ (x y : Word) (a b : Int),
    rotl16 (rotl16 x a) b = rotl16 x (a + b) ∧
    rotl16 x a = rotl16 x (a + 16) ∧
    rotl16 (x ^^^ y) a = rotl16 x a ^^^ rotl16 y a ∧
    rotl16 (x &&& y) a = rotl16 x a &&& rotl16 y a ∧
    rotl16 0 a = 0 ∧
    rotl16 0xFFFF#16 a = 0xFFFF#16 ∧
    rotl16 (rotl16 x 8) 8 = x ∧
    (a % 16 = 0 → rotl16 x a = x)) ∧
  rotl16 0x0001#16 1 = 0x0002#16 ∧ rotl16 0x8000#16 1 = 0x0001#16 ∧
  rotl16 0x1234#16 4 = 0x2341#16 ∧ rotl16 0x1234#16 (-3) = 0x8246#16 ∧
  rotl16 0x1234#16 13 = 0x8246#16 ∧ rotl16 0x1234#16 (-8) = 0x3412#16 ∧
  rotl16 0x0001#16 (-3) = 0x2000#16 ∧ rotl16 0x1234#16 16 = 0x1234#16

/-- R59 and R60: `split` takes bits 31:16 and 15:0, `join` is `(h << 16) | l`, each undoes the other,
and the rules' examples. -/
def Obligations.SplitAndJoinUndoEachOther : Prop :=
  (∀ b : Block, split b = (b.extractLsb 31 16, b.extractLsb 15 0)) ∧
  (∀ h l : Word, join h l = (h.setWidth 32 <<< 16) ||| l.setWidth 32) ∧
  (∀ h l : Word, split (join h l) = (h, l)) ∧
  (∀ b : Block, join (split b).1 (split b).2 = b) ∧
  split 0x68776565#32 = (0x6877#16, 0x6565#16) ∧
  join 0xB8A6#16 0x7DBF#16 = 0xB8A67DBF#32

/-- From R67: the formula of `f`, its corner cases and examples (that nothing is connected to `f` is
no statement of Lean: no other definition names it). -/
def Obligations.StandardFunctionValues : Prop :=
  (∀ lo : Word, fWord lo = (rotl16 lo 1 &&& rotl16 lo 8) ^^^ rotl16 lo 2) ∧
  fWord 0x0000#16 = 0x0000#16 ∧ fWord 0xFFFF#16 = 0x0000#16 ∧ fWord 0x0001#16 = 0x0004#16 ∧
  fWord 0x0081#16 = 0x0304#16 ∧ fWord 0x6565#16 = 0xD5D5#16

/-- R37: a Block given as words `[w0, w1]` is `(w1 << 16) | w0`, the same pairing reads it back, and
the source's vector. -/
def Obligations.FirstWordOfABlockIsTheLowHalf : Prop :=
  (∀ w0 w1 : Word, blockOfWords w0 w1 = (w1.setWidth 32 <<< 16) ||| w0.setWidth 32) ∧
  (∀ w0 w1 : Word, wordsOfBlock (blockOfWords w0 w1) = [w0, w1]) ∧
  blockOfWords 0x6565#16 0x6877#16 = 0x68776565#32 ∧
  wordsOfBlock 0x68779A9A#32 = [0x9A9A#16, 0x6877#16]

/-- From R52: `key_flat[16*i+15 : 16*i] = key_in[i]`, no bit of the bus is lost either way, and the
source's key list. -/
def Obligations.KeyBusCarriesEveryWord : Prop :=
  (∀ (key : KeyArray) (i : Nat) (h : i < 8), (keyFlat key).extractLsb' (16 * i) 16 = key[i]) ∧
  (∀ key : KeyArray, keyOfFlat (keyFlat key) = key) ∧
  (∀ bus : BitVec 128, keyFlat (keyOfFlat bus) = bus) ∧
  keyFlat #v[0x1918, 0x1110, 0x0908, 0x0100, 0x0706, 0x0504, 0x0302, 0x0100] =
    0x01000302050407060100090811101918#128

/-! ### simon64_round (41_simon64_round.md) -/

/-- R74: `ROUND.ENC` from every state, its result, its frame (only the pins of `simon64_round` are
written) and the rule's corner cases. -/
def Obligations.RoundEncAppliesOneForwardRound : Prop :=
  (∀ s : State,
    let hi := s.roundPins.stateIn.extractLsb' 16 16
    let lo := s.roundPins.stateIn.extractLsb' 0 16
    let nh := hi ^^^ s.roundPins.roundKey ^^^ rotl16 lo (-3) ^^^ rotl16 lo (-8)
    let nl := lo ^^^ nh ^^^ rotl16 nh (-3) ^^^ rotl16 hi (-8)
    exec .roundEnc s =
      .next { s with
        roundPins := { s.roundPins with dir := .encrypt }
        stateOut := nh ++ nl }) ∧
  (∀ k : Word, fwd 0 k = k ++ (k ^^^ rotl16 k (-3))) ∧
  fwd 0 0 = 0 ∧ fwd 0 0x0001#16 = 0x00012001#32 ∧ fwd 0 0xFFFF#16 = 0xFFFF0000#32 ∧
  fwd 0xFFFFFFFF#32 0 = 0xFFFF0000#32 ∧ fwd 0xFFFFFFFF#32 0xFFFF#16 = 0 ∧
  fwd 0x68776565#32 0x1918#16 = 0xB8A67DBF#32

/-- R75: in `DEC_MODE = LITERAL` `ROUND.DEC` gives its input back, whatever the round key, and writes
nothing else. -/
def Obligations.LiteralRoundDecPassesThrough : Prop :=
  ∀ s : State, s.decMode = .literal →
    exec .roundDec s =
      .next { s with
        roundPins := { s.roundPins with dir := .decrypt }
        stateOut := s.roundPins.stateIn }

/-- R77: in `DEC_MODE = INTENDED` `ROUND.DEC` gives the rule's formula, writes nothing else, undoes
`ROUND.ENC` with the same key, and has the rule's corner cases and worked example. -/
def Obligations.IntendedRoundDecUndoesRoundEnc : Prop :=
  (∀ s : State, s.decMode = .intended →
    let nh := s.roundPins.stateIn.extractLsb' 16 16
    let nl := s.roundPins.stateIn.extractLsb' 0 16
    let wireA := nh ^^^ s.roundPins.roundKey
    let wireB := nl ^^^ nh ^^^ rotl16 nh (-3)
    let lo := rotl16 (wireB ^^^ rotl16 wireA (-8)) (-5)
    let hi := wireA ^^^ rotl16 lo (-3) ^^^ rotl16 lo (-8)
    exec .roundDec s =
      .next { s with
        roundPins := { s.roundPins with dir := .decrypt }
        stateOut := hi ++ lo }) ∧
  (∀ (s : State) (b : Block), s.decMode = .intended →
    s.roundPins.stateIn = fwd b s.roundPins.roundKey →
    ∃ t, exec .roundDec s = .next t ∧ readStateOut t = b) ∧
  invRound 0 0 = 0 ∧ invRound 0x00012001#32 0x0001#16 = 0 ∧
  invRound 0xB8A67DBF#32 0x1918#16 = 0x68776565#32

/-- R79: for every key the forward round is a bijection of the Blocks with the inverse round as its
inverse on both sides; in LITERAL one Decrypt round gives `fwd(s, k)` back, which is not `s` in
general. -/
def Obligations.ForwardRoundIsABijection : Prop :=
  (∀ k : Word, Function.Bijective (fun b => fwd b k)) ∧
  (∀ (b : Block) (k : Word), invRound (fwd b k) k = b) ∧
  (∀ (b : Block) (k : Word), fwd (invRound b k) k = b) ∧
  (∀ (b : Block) (k : Word),
    simonRound .literal (simonRound .literal b k .encrypt) k .decrypt = fwd b k) ∧
  ∃ (b : Block) (k : Word), fwd b k ≠ b

/-- R80: the forward round is affine over XOR, and commutes with rotating both halves and the key by
the same amount. -/
def Obligations.ForwardRoundIsAffine : Prop :=
  (∀ (b : Block) (k : Word), fwd b k = fwd b 0 ^^^ fwd 0 k) ∧
  (∀ b c : Block, fwd (b ^^^ c) 0 = fwd b 0 ^^^ fwd c 0) ∧
  (∀ k : Word, fwd 0 k = join k (k ^^^ rotl16 k (-3))) ∧
  ∀ (b : Block) (k : Word) (a : Int), fwd (rot2 b a) (rotl16 k a) = rot2 (fwd b k) a

/-- R78: the function `round` by direction and mode, and the pin `state_out`, which shows it for the
levels on the three input pins. -/
def Obligations.RoundIsSelectedByDirectionAndMode : Prop :=
  (∀ (m : DecMode) (b : Block) (k : Word), simonRound m b k .encrypt = fwd b k) ∧
  (∀ (b : Block) (k : Word), simonRound .literal b k .decrypt = b) ∧
  (∀ (b : Block) (k : Word), simonRound .intended b k .decrypt = invRound b k) ∧
  ∀ (p : RoundPins) (s : State),
    readStateOut (presentRound p s) = simonRound s.decMode p.stateIn p.roundKey p.dir

/-- From R15 and R109: the two operations of Format R write no register of the core, and the five
transitions of Format C do not touch the pins of `simon64_round`. -/
def Obligations.TheTwoBlocksLeaveEachOtherAlone : Prop :=
  ∀ (i : Instr) (s t : State), exec i s = .next t →
    (formatOf i = .r → CoreKept s t ∧ t.loopPins = s.loopPins) ∧
    (formatOf i = .c → t.roundPins = s.roundPins ∧ t.stateOut = s.stateOut)

/-! ### simon64_cipher_loop: the transitions (42_simon64_cipher_loop.md) -/

/-- R84: `NOP` is selected by `000x`, changes nothing, and leaves a result readable. -/
def Obligations.NopKeepsEverything : Prop :=
  ∀ (s : State) (d : Direction),
    decodeControl (controlBits false false false d) = .nop d ∧ exec (.nop d) s = .next s

/-- R86 with the capture of R85: `ENC` is selected by `0010`, and from every state captures all the
operands, clears `IDX`, sets `BUSY`, clears `DONE`, writes `DIRR <- 0`, and changes nothing else. -/
def Obligations.EncCapturesAndBeginsAnEncryptRun : Prop :=
  decodeControl 0b0010#4 = .enc ∧
  ∀ s : State,
    exec .enc s =
      .next { s with
        sReg := s.loopPins.blockIn
        kr := s.loopPins.keyIn
        idx := 0
        busy := true
        done := false
        dirr := .encrypt
        holdsOperands := true }

/-- R87 with the capture of R85: `DEC`, selected by `0011`, is the same capture with `DIRR <- 1`. -/
def Obligations.DecCapturesAndBeginsADecryptRun : Prop :=
  decodeControl 0b0011#4 = .dec ∧
  ∀ s : State,
    exec .dec s =
      .next { s with
        sReg := s.loopPins.blockIn
        kr := s.loopPins.keyIn
        idx := 0
        busy := true
        done := false
        dirr := .decrypt
        holdsOperands := true }

/-- From R33 and R85: after ENC and after DEC every word address of the key word space, reduced modulo
8, reads the word that was on the key pins. -/
def Obligations.CapturedKeyReadsBack : Prop :=
  ∀ (s : State) (a : Nat),
    (∃ t, exec .enc s = .next t ∧
      memRead t.kr a = s.loopPins.keyIn[a % 8]'(Nat.mod_lt a (by decide))) ∧
    (∃ t, exec .dec s = .next t ∧
      memRead t.kr a = s.loopPins.keyIn[a % 8]'(Nat.mod_lt a (by decide)))

/-- R89 with the key index of R88: `STEP` from every state, at `IDX = 31` and below it, with the bits
`start` and `dir` of its word ignored; nothing else changes. -/
def Obligations.StepAppliesOneRoundWithTheIndexedKey : Prop :=
  ∀ (s : State) (start : Bool) (dir : Direction),
    let a := if s.dirr = .decrypt ∧ s.decMode = .intended then 31 - s.idx.toNat else s.idx.toNat
    let rk := s.kr[a % 8]'(Nat.mod_lt a (by decide))
    exec (.step start dir) s =
      if s.idx = 31 then
        .next { s with
          sReg := simonRound s.decMode s.sReg rk s.dirr, idx := 0, busy := false, done := true }
      else
        .next { s with
          sReg := simonRound s.decMode s.sReg rk s.dirr
          idx := BitVec.ofNat 5 (s.idx.toNat + 1) }

/-- R88: the key index for every round index, and in bits: the three low bits of `IDX`, or their
complement. -/
def Obligations.KeyIndexIsTheLowThreeBits : Prop :=
  ∀ i : RoundIndex,
    (∀ m : DecMode, kidx m i.toNat .encrypt = i.toNat % 8) ∧
    kidx .literal i.toNat .decrypt = i.toNat % 8 ∧
    kidx .intended i.toNat .decrypt = (31 - i.toNat) % 8 ∧
    BitVec.ofNat 3 (i.toNat % 8) = i.extractLsb' 0 3 ∧
    BitVec.ofNat 3 ((31 - i.toNat) % 8) = ~~~(i.extractLsb' 0 3)

/-- From R36 and R95: over the round indices 0..31 the key words are visited 0, 1, ..., 7 four times
over, or 7, 6, ..., 0 four times over in an INTENDED Decrypt run. -/
def Obligations.KeyWordsAreVisitedFourTimesOver : Prop :=
  let up := [0, 1, 2, 3, 4, 5, 6, 7]
  let down := [7, 6, 5, 4, 3, 2, 1, 0]
  (∀ m : DecMode, (List.range 32).map (fun i => kidx m i .encrypt) = up ++ up ++ up ++ up) ∧
  (List.range 32).map (fun i => kidx .literal i .decrypt) = up ++ up ++ up ++ up ∧
  (List.range 32).map (fun i => kidx .intended i .decrypt) = down ++ down ++ down ++ down

/-! ### Runs (42_simon64_cipher_loop.md R91 to R98) -/

/-- R94: from any idle state, a request for a run of direction `d` and then `STEP`s with `rst = 0` and
anything on the other pins. After the `j`-th STEP, `j <= 31`, the registers are as R94 says; after the
32nd, `DONE = 1`, `BUSY = 0`, `IDX = 0`, and `S` is `encrypt(b, K)` or `decrypt(b, K)`, which the host
reads on `block_out`. -/
def Obligations.RunComputesTheFunctionLevel : Prop :=
  ∀ (s : State) (d : Direction) (b : Block) (key : KeyArray) (lines : List Drive),
    Idle s → lines.length = 32 → (∀ l ∈ lines, noResetLine l = true) →
    (∀ j, j ≤ 31 →
      ∃ t, runDrives (.loop (requestPins d b key) :: lines.take j) s = .next t ∧
        t.decMode = s.decMode ∧ InRun d b key j t) ∧
    ∃ t, runDrives (.loop (requestPins d b key) :: lines) s = .next t ∧
      t.decMode = s.decMode ∧ RunDone d b key t ∧
      readBlockOut t = .ok (runResult s.decMode d b key)

/-- R98: the result of a run depends on the captured operands and on `DEC_MODE` only, not on the idle
state it started from and not on what the pins do during it. -/
def Obligations.ResultDependsOnOperandsOnly : Prop :=
  ∀ (s s' : State) (d : Direction) (b : Block) (key : KeyArray) (lines lines' : List Drive),
    Idle s → Idle s' → s.decMode = s'.decMode →
    lines.length = 32 → lines'.length = 32 →
    (∀ l ∈ lines, noResetLine l = true) → (∀ l ∈ lines', noResetLine l = true) →
    ∃ t t', runDrives (.loop (requestPins d b key) :: lines) s = .next t ∧
      runDrives (.loop (requestPins d b key) :: lines') s' = .next t' ∧
      SameRegisters t t' ∧ readBlockOut t = readBlockOut t'

/-- From R96: `encrypt` is an XOR with a mask that depends on the key alone, so it is the identity
for the zero key and undoes itself; 16 zero-key rounds exchange the two bytes inside each half. -/
def Obligations.EncryptIsXorWithTheMask : Prop :=
  (∀ p : Block, encrypt p zeroKey = p) ∧
  (∀ p : Block, encryptRounds p zeroKey 16 = rot2 p 8) ∧
  (∀ (p : Block) (key : KeyArray), encrypt p key = p ^^^ mask key) ∧
  ∀ (p : Block) (key : KeyArray), encrypt (encrypt p key) key = p

/-- From R96: the mask is XOR-linear in the key, and the table of the masks of the one-bit keys. -/
def Obligations.MaskIsLinearInTheKey : Prop :=
  let oneWord (w : Nat) (v : Word) : KeyArray := Vector.ofFn fun i => if i.val = w then v else 0
  let table : List Block :=
    [0x88888888#32, 0xDDDDCCCC#32, 0x1111BBBB#32, 0x4444CCCC#32,
      0x22222222#32, 0x77773333#32, 0x4444EEEE#32, 0x11113333#32]
  (∀ key other : KeyArray, mask (xorKey key other) = mask key ^^^ mask other) ∧
  (List.range 8).map (fun w => mask (oneWord w 0x0001#16)) = table ∧
  ∀ (w : Nat) (b : Int), w < 8 →
    mask (oneWord w (rotl16 0x0001#16 b)) = rot2 (mask (oneWord w 0x0001#16)) b

/-- R97: in INTENDED the round trip holds for all Blocks and keys, and `decrypt` is the XOR with the
mask; in LITERAL `decrypt` gives the ciphertext back, which is the plaintext exactly when the mask is
0; the source's fixed key has the mask `0x0000FFFF`. -/
def Obligations.RoundTripHoldsExactlyInIntendedMode : Prop :=
  (∀ (p : Block) (key : KeyArray), decrypt .intended (encrypt p key) key = p) ∧
  (∀ (c : Block) (key : KeyArray),
    decrypt .intended c key = c ^^^ mask key ∧ decrypt .intended c key = encrypt c key) ∧
  (∀ (p : Block) (key : KeyArray),
    decrypt .literal (encrypt p key) key = encrypt p key ∧
    decrypt .literal (encrypt p key) key = p ^^^ mask key ∧
    (decrypt .literal (encrypt p key) key = p ↔ mask key = 0)) ∧
  mask #v[0x1918, 0x1110, 0x0908, 0x0100, 0x0706, 0x0504, 0x0302, 0x0100] = 0x0000FFFF#32

/-- From R94 and R97, on the machine: an Encrypt run and then, back to back (R121), a Decrypt run of
its result with the same key, `rst = 0` throughout. In INTENDED the host reads the plaintext; in
LITERAL it reads the ciphertext. -/
def Obligations.DecryptRunAfterEncryptRun : Prop :=
  ∀ (s : State) (p : Block) (key : KeyArray) (lines lines' : List Drive),
    Idle s → lines.length = 32 → lines'.length = 32 →
    (∀ l ∈ lines, noResetLine l = true) → (∀ l ∈ lines', noResetLine l = true) →
    ∃ t, runDrives (.loop (requestPins .encrypt p key) :: lines ++
        .loop (requestPins .decrypt (encrypt p key) key) :: lines') s = .next t ∧
      (s.decMode = .intended → readBlockOut t = .ok p) ∧
      (s.decMode = .literal → readBlockOut t = .ok (encrypt p key))

/-- From R99 and R124: from every state in which a run is in progress, the run ends after exactly
`32 - IDX` more sequencer steps with `rst = 0`, for all data and whatever is on the other pins. -/
def Obligations.EveryRunEndsInBoundedSteps : Prop :=
  ∀ (s : State) (lines : List Drive),
    s.wasReset = true → s.busy = true → (∀ l ∈ lines, noResetLine l = true) →
    (lines.length < 32 - s.idx.toNat →
      ∃ t, runDrives lines s = .next t ∧ t.busy = true ∧
        t.idx = BitVec.ofNat 5 (s.idx.toNat + lines.length)) ∧
    (lines.length = 32 - s.idx.toNat →
      ∃ t, runDrives lines s = .next t ∧ t.busy = false ∧ t.done = true ∧ t.idx = 0)

/-! ### RESET and start-up (70_reset_and_hazards.md) -/

/-- R113: `RESET` from every state: `BUSY`, `DONE` and `IDX` become 0, and `S`, `DIRR`, `KR` hold no
value, so nothing is said of their bits; pins, the configuration and `simon64_round` are not
affected; a second RESET gives the same again. -/
def Obligations.ResetBringsTheSequencerToIdle : Prop :=
  (∀ w : BitVec 4, w.getLsbD 3 = true → ∃ b st d, decodeControl w = .reset b st d) ∧
  ∀ (s : State) (busy start : Bool) (dir : Direction),
    ∃ t, exec (.reset busy start dir) s = .next t ∧
      t.busy = false ∧ t.done = false ∧ t.idx = 0 ∧ t.holdsOperands = false ∧
      t.wasReset = true ∧ t.decMode = s.decMode ∧ t.loopPins = s.loopPins ∧
      t.roundPins = s.roundPins ∧ t.stateOut = s.stateOut ∧ t.target = s.target ∧
      t.trace = s.trace

/-- R115: while `rst` is 1 every step takes RESET, from every state, before the first RESET and in a
run too, whatever `start` and the other pins are; the machine stays idle and has no result. -/
def Obligations.ResetHasPriorityOverEverything : Prop :=
  ∀ (s : State) (pins : List LoopPins),
    pins ≠ [] → (∀ p ∈ pins, p.rst = true) →
    ∃ t, runDrives (pins.map .loop) s = .next t ∧
      Idle t ∧ t.done = false ∧ t.holdsOperands = false ∧
      readBlockOut t = .error .pinHasNoValue

/-- R114: a run in progress ends in a step only by its STEP at `IDX = 31`, with `DONE = 1`, or by a
RESET, with no result to read. -/
def Obligations.OnlyItsLastStepOrResetEndsARun : Prop :=
  ∀ s : State, s.wasReset = true → s.busy = true →
    ∃ t, step s = .next t ∧
      (t.busy = false ↔
        s.target = .loop ∧ (s.loopPins.rst = true ∨ s.idx = 31)) ∧
      (SequencerTurn s → s.idx = 31 → t.done = true) ∧
      (s.target = .loop → s.loopPins.rst = true →
        t.done = false ∧ t.holdsOperands = false ∧ readBlockOut t = .error .pinHasNoValue)

/-- R116: before the first RESET a sequencer step with `rst = 0` is stuck, one with `rst = 1` reaches
the idle state, and no output pin of the loop shows a value. -/
def Obligations.StuckUntilTheFirstReset : Prop :=
  ∀ s : State, s.wasReset = false →
    (∀ p : LoopPins, p.rst = false → step (present p s) = .fault .noTransitionBeforeReset) ∧
    (∀ p : LoopPins, p.rst = true → ∃ t, step (present p s) = .next t ∧ Idle t) ∧
    readBusy s = .error .pinHasNoValue ∧ readDone s = .error .pinHasNoValue ∧
    readBlockOut s = .error .pinHasNoValue

/-- R28: the state after RESET. The status bits and `IDX` are 0 and the pins show them, the other
registers and `block_out` hold no value (nothing is said of their bits), and `state_out` is the
function of its inputs; at power-up no register holds a value and no pin of the loop shows one. -/
def Obligations.ResetStateIsIdleAndEmpty : Prop :=
  State.reset.busy = false ∧ State.reset.done = false ∧ State.reset.idx = 0 ∧
  State.reset.wasReset = true ∧ State.reset.holdsOperands = false ∧
  readBusy State.reset = .ok false ∧ readDone State.reset = .ok false ∧
  readBlockOut State.reset = .error .pinHasNoValue ∧ RoundSettled State.reset ∧
  State.powerUp.wasReset = false ∧ State.powerUp.holdsOperands = false ∧
  readBusy State.powerUp = .error .pinHasNoValue ∧ readDone State.powerUp = .error .pinHasNoValue ∧
  readBlockOut State.powerUp = .error .pinHasNoValue

/-! ### Invariants (10_state.md R29) -/

/-- From R29: the invariants hold at reset, and at power-up. -/
def Obligations.CoreInvHoldsAtResetAndPowerUp : Prop :=
  CoreInv State.reset ∧ CoreInv State.powerUp

/-- From R29 (I1, I2, I3, I4's "`S` holds a value") and R15: every step keeps the invariants. -/
def Obligations.EveryStepKeepsCoreInv : Prop :=
  ∀ s t : State, CoreInv s → step s = .next t → CoreInv t

/-- From R29 (I4) and R94: a step of a run keeps "`S` is the value the function level gives for the
captured operands": a sequencer step with `rst = 0` takes a run after `j` STEPs to the run after
`j + 1`, or, at `j = 31`, to its end; an evaluation of `simon64_round` in between leaves it where it
is. -/
def Obligations.EveryStepOfARunKeepsItsValue : Prop :=
  ∀ (s : State) (d : Direction) (b : Block) (key : KeyArray) (j : Nat),
    InRun d b key j s →
    (SequencerTurn s →
      ∃ t, step s = .next t ∧ t.decMode = s.decMode ∧
        if j = 31 then RunDone d b key t else InRun d b key (j + 1) t) ∧
    (s.target = .round → ∃ t, step s = .next t ∧ t.decMode = s.decMode ∧ InRun d b key j t)

/-- From R19, R29 (I4) and R84: a result stays, and stays readable, for as long as there is no new
request and no RESET. -/
def Obligations.ResultIsHeldUntilTheNextRequest : Prop :=
  ∀ (s : State) (d : Direction) (b : Block) (key : KeyArray),
    RunDone d b key s →
    (s.target = .round ∨ (SequencerTurn s ∧ s.loopPins.start = false)) →
    ∃ t, step s = .next t ∧ RunDone d b key t ∧ readBlockOut t = readBlockOut s

/-! ### Whole-machine rules (10_state.md) -/

/-- From R18 and R19: what sets and clears `BUSY` and `DONE`, and nothing else does. -/
def Obligations.StatusBitsChangeOnlyAsNamed : Prop :=
  ∀ (i : Instr) (s t : State), exec i s = .next t →
    (t.busy ≠ s.busy →
      (t.busy = true ∧ (i = .enc ∨ i = .dec)) ∨
      (t.busy = false ∧
        ((∃ st d, i = .step st d ∧ s.idx = 31) ∨ ∃ b st d, i = .reset b st d))) ∧
    (t.done ≠ s.done →
      (t.done = true ∧ ∃ st d, i = .step st d ∧ s.idx = 31) ∨
      (t.done = false ∧ (i = .enc ∨ i = .dec ∨ ∃ b st d, i = .reset b st d)))

/-- From R16, R17, R20, R21 and R28: which operations write `S`, `IDX`, `DIRR` and `KR`. -/
def Obligations.EachRegisterHasOnlyItsNamedWriters : Prop :=
  ∀ (i : Instr) (s t : State), exec i s = .next t →
    (t.sReg ≠ s.sReg →
      i = .enc ∨ i = .dec ∨ (∃ st d, i = .step st d) ∨ ∃ b st d, i = .reset b st d) ∧
    (t.idx ≠ s.idx →
      i = .enc ∨ i = .dec ∨ (∃ st d, i = .step st d) ∨ ∃ b st d, i = .reset b st d) ∧
    (t.dirr ≠ s.dirr → i = .enc ∨ i = .dec ∨ ∃ b st d, i = .reset b st d) ∧
    (t.kr ≠ s.kr → i = .enc ∨ i = .dec ∨ ∃ b st d, i = .reset b st d)

/-- From R35 and R119: the key word space is a private copy: whatever the host puts on the pins during a run,
without a reset, the key words and the direction of the run stay as captured. -/
def Obligations.KeyAndDirectionAreFixedDuringARun : Prop :=
  ∀ (s : State) (l : Drive), s.wasReset = true → s.busy = true →
    (∀ p, l = .loop p → p.rst = false) →
    ∃ t, step (applyDrive l s) = .next t ∧ t.kr = s.kr ∧ t.dirr = s.dirr

/-- R90: while `BUSY = 1` a request is dropped: with any two settings of the pins without a reset the
step leaves the same registers, so the request leaves no trace and is not remembered. -/
def Obligations.RequestDuringARunIsDropped : Prop :=
  ∀ (s : State) (p q : LoopPins), s.wasReset = true → s.busy = true →
    p.rst = false → q.rst = false →
    fetch (present p s) = .ok (.step p.start p.dir) ∧
    ∃ t u, step (present p s) = .next t ∧ step (present q s) = .next u ∧
      SameRegisters t u ∧ t.holdsOperands = u.holdsOperands ∧ t.wasReset = u.wasReset

/-- R27: no step changes the configuration of the instance. -/
def Obligations.ConfigurationIsFixedForEver : Prop :=
  ∀ s t : State, step s = .next t → t.decMode = s.decMode

/-- R25: `block_out` reads `S` when `DONE = 1` and no value when `DONE = 0`. -/
def Obligations.BlockOutIsReadableExactlyWhenDone : Prop :=
  ∀ s : State, CoreInv s → s.wasReset = true →
    (s.done = true → readBlockOut s = .ok s.sReg) ∧
    (s.done = false → readBlockOut s = .error .pinHasNoValue)

/-- R83: from the first RESET on the sequencer always has a transition, the one its control word
selects, and is never stuck. -/
def Obligations.SequencerIsNeverStuckAfterReset : Prop :=
  ∀ s : State, s.wasReset = true →
    (∃ t, step s = .next t ∧ t.wasReset = true) ∧
    (s.target = .loop →
      ∃ u, exec (decodeControl (controlWord s)) s = .next u ∧ step s = .next (hostAdvance u))

/-! ### Encodings and the step (30_encoding.md) -/

/-- R49 and R50: the rows of Format C by match and mask, and how many of the 16 control words each
selects. -/
def Obligations.ControlWordSelectsOneRow : Prop :=
  (∀ w : BitVec 4,
    (w &&& 0b1000#4 = 0b1000#4 ↔ ∃ b st d, decodeControl w = .reset b st d) ∧
    (w &&& 0b1100#4 = 0b0100#4 ↔ ∃ st d, decodeControl w = .step st d) ∧
    (w &&& 0b1111#4 = 0b0010#4 ↔ decodeControl w = .enc) ∧
    (w &&& 0b1111#4 = 0b0011#4 ↔ decodeControl w = .dec) ∧
    (w &&& 0b1110#4 = 0b0000#4 ↔ ∃ d, decodeControl w = .nop d)) ∧
  (List.range 16).countP (fun n => BitVec.ofNat 4 n &&& 0b1000#4 == 0b1000#4) = 8 ∧
  (List.range 16).countP (fun n => BitVec.ofNat 4 n &&& 0b1100#4 == 0b0100#4) = 4 ∧
  (List.range 16).countP (fun n => BitVec.ofNat 4 n &&& 0b1111#4 == 0b0010#4) = 1 ∧
  (List.range 16).countP (fun n => BitVec.ofNat 4 n &&& 0b1111#4 == 0b0011#4) = 1 ∧
  (List.range 16).countP (fun n => BitVec.ofNat 4 n &&& 0b1110#4 == 0b0000#4) = 2

/-- From R47 and R49: words written out from the spec's encodings decode to their operations. -/
def Obligations.WordsOfTheTableDecode : Prop :=
  decode .r 0b0 = .ok .roundEnc ∧ decode .r 0b1 = .ok .roundDec ∧
  decode .c 0b1000 = .ok (.reset false false .encrypt) ∧
  decode .c 0b1111 = .ok (.reset true true .decrypt) ∧
  decode .c 0b0111 = .ok (.step true .decrypt) ∧
  decode .c 0b0010 = .ok .enc ∧ decode .c 0b0011 = .ok .dec ∧
  decode .c 0b0001 = .ok (.nop .decrypt)

/-- From R47 to R50: decoding the word of a well-formed instruction in its format gives it back, bits
that are not examined included, and every word of a format is the word of the instruction it decodes
to. -/
def Obligations.DecodeAndEncodeAgree : Prop :=
  (∀ i : Instr, i.wf = true → decode (formatOf i) (encode i) = .ok i) ∧
  ∀ (f : Format) (w : Nat) (i : Instr), decode f w = .ok i → formatOf i = f ∧ encode i = w

/-- From R48, R49, R55 and R83: a step runs the operation the pins and `BUSY` select, and then the host
puts its next line on the pins (that line is the model's form, log 1). -/
def Obligations.StepRunsTheDecodedInstruction : Prop :=
  (∀ (s : State) (i : Instr), s.target = .loop → s.wasReset = true ∨ s.loopPins.rst = true →
    decode .c (controlBits s.loopPins.rst s.busy s.loopPins.start s.loopPins.dir).toNat = .ok i →
    step s = afterTransition (exec i s)) ∧
  (∀ (s : State) (i : Instr), s.target = .round →
    decode .r (BitVec.ofBool (dirBit s.roundPins.dir)).toNat = .ok i →
    step s = afterTransition (exec i s)) ∧
  (∀ t : State, afterTransition (.next t) = .next (hostAdvance t)) ∧
  (∀ t : State, t.trace = [] → hostAdvance t = { t with target := .loop }) ∧
  (∀ (t : State) (p : LoopPins) (rest : List Drive), t.trace = .loop p :: rest →
    hostAdvance t = { t with trace := rest, loopPins := p, target := .loop }) ∧
  ∀ (t : State) (p : RoundPins) (rest : List Drive), t.trace = .round p :: rest →
    hostAdvance t =
      { t with
        trace := rest
        roundPins := p
        stateOut := simonRound t.decMode p.stateIn p.roundKey p.dir
        target := .round }

/-- From R52 and R55: the line of a trace puts pin levels on exactly when its key has 8 words, and
then the operation the next step takes is the line's own, with `busy` supplied by the state. -/
def Obligations.TraceLineTakesItsOwnOperation : Prop :=
  (∀ line : TraceLine, line.wf = (lineDrive line).isSome) ∧
  ∀ (line : TraceLine) (l : Drive) (s : State),
    lineDrive line = some l → s.wasReset = true → lineFits s.busy line = true →
    fetch (applyDrive l s) = .ok (lineInstr s.busy line)

/-- Of the model's own form (log 1), from R55: running the machine closed, with a list of lines loaded
as its trace, leaves the registers that driving it line by line leaves. -/
def Obligations.LoadedTraceRunsAsDriven : Prop :=
  ∀ (s : State) (lines : List Drive), s.wasReset = true → lines ≠ [] →
    ∃ t u, Host.Core.run Sys2Proof.core lines.length (loadTrace lines s) = .next t ∧
      runDrives lines s = .next u ∧ SameRegisters t u ∧ t.holdsOperands = u.holdsOperands
end

