-- ==== Sys2Proof/Laws/Bits.lean ====
section
/-!
SUPPORT. The word operations bit by bit: one lemma per operation, which proofs cite instead of its
shifts and slices.
-/

namespace Sys2Proof.Machine

theorem rotAmount_lt (n : Int) : rotAmount n < 16 := by
  unfold rotAmount; omega

/-- Bit `j` of a rotated word comes from `n` places below, around the word (R63). -/
theorem rotl16_getLsbD (x : Word) (n : Int) (j : Nat) (hj : j < 16) :
    (rotl16 x n).getLsbD j = x.getLsbD ((j + (16 - rotAmount n)) % 16) := by
  have h := rotAmount_lt n
  unfold rotl16
  generalize rotAmount n = m at *
  simp only [BitVec.getLsbD_or, BitVec.getLsbD_shiftLeft, BitVec.getLsbD_ushiftRight]
  by_cases hjm : j < m
  · have : (j + (16 - m)) % 16 = 16 - m + j := by omega
    simp [this, hjm]
  · have : (j + (16 - m)) % 16 = j - m := by omega
    have h2 : x.getLsbD (16 - m + j) = false := BitVec.getLsbD_of_ge _ _ (by omega)
    simp [this, hjm, hj, h2]

theorem hiWord_getLsbD (b : Block) (j : Nat) (hj : j < 16) :
    (hiWord b).getLsbD j = b.getLsbD (16 + j) := by
  simp only [hiWord, BitVec.getLsbD_extractLsb', hj, decide_true, Bool.true_and]

theorem loWord_getLsbD (b : Block) (j : Nat) (hj : j < 16) :
    (loWord b).getLsbD j = b.getLsbD j := by
  simp only [loWord, BitVec.getLsbD_extractLsb', hj, decide_true, Bool.true_and, Nat.zero_add]

theorem join_getLsbD (h l : Word) (j : Nat) :
    (join h l).getLsbD j = if j < 16 then l.getLsbD j else h.getLsbD (j - 16) := by
  simp only [join, BitVec.getLsbD_append]

/-- Two words are equal when their 16 bits are. -/
theorem word_ext {x y : Word} (h : ∀ j, j < 16 → x.getLsbD j = y.getLsbD j) : x = y :=
  BitVec.eq_of_getLsbD_eq fun i hi => h i hi

end Sys2Proof.Machine
end

