-- ==== Sys2Proof/Laws/State.lean ====
section
/-!
SUPPORT. What each update of State does to each field: one lemma per field and update, so that no
proof unfolds a record update.
-/

namespace Sys2Proof.Machine

@[simp] theorem flagsBeginRun_sReg (s : State) : (flagsBeginRun s).sReg = s.sReg := rfl
@[simp] theorem flagsBeginRun_idx (s : State) : (flagsBeginRun s).idx = s.idx := rfl
@[simp] theorem flagsBeginRun_busy (s : State) : (flagsBeginRun s).busy = true := rfl
@[simp] theorem flagsBeginRun_done (s : State) : (flagsBeginRun s).done = false := rfl
@[simp] theorem flagsBeginRun_dirr (s : State) : (flagsBeginRun s).dirr = s.dirr := rfl
@[simp] theorem flagsBeginRun_kr (s : State) : (flagsBeginRun s).kr = s.kr := rfl
@[simp] theorem flagsBeginRun_holdsOperands (s : State) :
    (flagsBeginRun s).holdsOperands = s.holdsOperands := rfl
@[simp] theorem flagsBeginRun_wasReset (s : State) : (flagsBeginRun s).wasReset = s.wasReset := rfl
@[simp] theorem flagsBeginRun_decMode (s : State) : (flagsBeginRun s).decMode = s.decMode := rfl
@[simp] theorem flagsBeginRun_loopPins (s : State) : (flagsBeginRun s).loopPins = s.loopPins := rfl
@[simp] theorem flagsBeginRun_roundPins (s : State) :
    (flagsBeginRun s).roundPins = s.roundPins := rfl
@[simp] theorem flagsBeginRun_stateOut (s : State) : (flagsBeginRun s).stateOut = s.stateOut := rfl
@[simp] theorem flagsBeginRun_target (s : State) : (flagsBeginRun s).target = s.target := rfl
@[simp] theorem flagsBeginRun_trace (s : State) : (flagsBeginRun s).trace = s.trace := rfl
@[simp] theorem flagsBeginRun_draws (s : State) : (flagsBeginRun s).draws = s.draws := rfl

@[simp] theorem flagsEndRun_sReg (s : State) : (flagsEndRun s).sReg = s.sReg := rfl
@[simp] theorem flagsEndRun_idx (s : State) : (flagsEndRun s).idx = s.idx := rfl
@[simp] theorem flagsEndRun_busy (s : State) : (flagsEndRun s).busy = false := rfl
@[simp] theorem flagsEndRun_done (s : State) : (flagsEndRun s).done = true := rfl
@[simp] theorem flagsEndRun_dirr (s : State) : (flagsEndRun s).dirr = s.dirr := rfl
@[simp] theorem flagsEndRun_kr (s : State) : (flagsEndRun s).kr = s.kr := rfl
@[simp] theorem flagsEndRun_holdsOperands (s : State) :
    (flagsEndRun s).holdsOperands = s.holdsOperands := rfl
@[simp] theorem flagsEndRun_wasReset (s : State) : (flagsEndRun s).wasReset = s.wasReset := rfl
@[simp] theorem flagsEndRun_decMode (s : State) : (flagsEndRun s).decMode = s.decMode := rfl
@[simp] theorem flagsEndRun_loopPins (s : State) : (flagsEndRun s).loopPins = s.loopPins := rfl
@[simp] theorem flagsEndRun_roundPins (s : State) : (flagsEndRun s).roundPins = s.roundPins := rfl
@[simp] theorem flagsEndRun_stateOut (s : State) : (flagsEndRun s).stateOut = s.stateOut := rfl
@[simp] theorem flagsEndRun_target (s : State) : (flagsEndRun s).target = s.target := rfl
@[simp] theorem flagsEndRun_trace (s : State) : (flagsEndRun s).trace = s.trace := rfl
@[simp] theorem flagsEndRun_draws (s : State) : (flagsEndRun s).draws = s.draws := rfl

@[simp] theorem flagsClear_sReg (s : State) : (flagsClear s).sReg = s.sReg := rfl
@[simp] theorem flagsClear_idx (s : State) : (flagsClear s).idx = s.idx := rfl
@[simp] theorem flagsClear_busy (s : State) : (flagsClear s).busy = false := rfl
@[simp] theorem flagsClear_done (s : State) : (flagsClear s).done = false := rfl
@[simp] theorem flagsClear_dirr (s : State) : (flagsClear s).dirr = s.dirr := rfl
@[simp] theorem flagsClear_kr (s : State) : (flagsClear s).kr = s.kr := rfl
@[simp] theorem flagsClear_holdsOperands (s : State) :
    (flagsClear s).holdsOperands = s.holdsOperands := rfl
@[simp] theorem flagsClear_wasReset (s : State) : (flagsClear s).wasReset = s.wasReset := rfl
@[simp] theorem flagsClear_decMode (s : State) : (flagsClear s).decMode = s.decMode := rfl
@[simp] theorem flagsClear_loopPins (s : State) : (flagsClear s).loopPins = s.loopPins := rfl
@[simp] theorem flagsClear_roundPins (s : State) : (flagsClear s).roundPins = s.roundPins := rfl
@[simp] theorem flagsClear_stateOut (s : State) : (flagsClear s).stateOut = s.stateOut := rfl
@[simp] theorem flagsClear_target (s : State) : (flagsClear s).target = s.target := rfl
@[simp] theorem flagsClear_trace (s : State) : (flagsClear s).trace = s.trace := rfl
@[simp] theorem flagsClear_draws (s : State) : (flagsClear s).draws = s.draws := rfl

/-- The eight writes of the capture replace the whole key word space (R34, R85). -/
@[simp] theorem memWriteAll_eq (space key : KeyArray) : memWriteAll space key = key := by
  ext i hi
  have : i = 0 ∨ i = 1 ∨ i = 2 ∨ i = 3 ∨ i = 4 ∨ i = 5 ∨ i = 6 ∨ i = 7 := by omega
  rcases this with h | h | h | h | h | h | h | h <;> subst h <;> simp [memWriteAll, memWrite]

@[simp] theorem captureOperands_sReg (d : Direction) (s : State) :
    (captureOperands d s).sReg = s.loopPins.blockIn := rfl
@[simp] theorem captureOperands_idx (d : Direction) (s : State) :
    (captureOperands d s).idx = 0 := rfl
@[simp] theorem captureOperands_busy (d : Direction) (s : State) :
    (captureOperands d s).busy = true := rfl
@[simp] theorem captureOperands_done (d : Direction) (s : State) :
    (captureOperands d s).done = false := rfl
@[simp] theorem captureOperands_dirr (d : Direction) (s : State) :
    (captureOperands d s).dirr = d := rfl
@[simp] theorem captureOperands_holdsOperands (d : Direction) (s : State) :
    (captureOperands d s).holdsOperands = true := rfl
@[simp] theorem captureOperands_wasReset (d : Direction) (s : State) :
    (captureOperands d s).wasReset = s.wasReset := rfl
@[simp] theorem captureOperands_decMode (d : Direction) (s : State) :
    (captureOperands d s).decMode = s.decMode := rfl
@[simp] theorem captureOperands_loopPins (d : Direction) (s : State) :
    (captureOperands d s).loopPins = s.loopPins := rfl
@[simp] theorem captureOperands_roundPins (d : Direction) (s : State) :
    (captureOperands d s).roundPins = s.roundPins := rfl
@[simp] theorem captureOperands_stateOut (d : Direction) (s : State) :
    (captureOperands d s).stateOut = s.stateOut := rfl
@[simp] theorem captureOperands_target (d : Direction) (s : State) :
    (captureOperands d s).target = s.target := rfl
@[simp] theorem captureOperands_trace (d : Direction) (s : State) :
    (captureOperands d s).trace = s.trace := rfl
@[simp] theorem captureOperands_draws (d : Direction) (s : State) :
    (captureOperands d s).draws = s.draws := rfl

@[simp] theorem captureOperands_kr (d : Direction) (s : State) :
    (captureOperands d s).kr = s.loopPins.keyIn := memWriteAll_eq s.kr s.loopPins.keyIn

@[simp] theorem forgetOperands_sReg (s : State) :
    (forgetOperands s).sReg = Config.freeBlock s.draws := rfl
@[simp] theorem forgetOperands_idx (s : State) : (forgetOperands s).idx = s.idx := rfl
@[simp] theorem forgetOperands_busy (s : State) : (forgetOperands s).busy = s.busy := rfl
@[simp] theorem forgetOperands_done (s : State) : (forgetOperands s).done = s.done := rfl
@[simp] theorem forgetOperands_dirr (s : State) :
    (forgetOperands s).dirr = Config.freeDirection s.draws := rfl
@[simp] theorem forgetOperands_kr (s : State) :
    (forgetOperands s).kr = Vector.ofFn fun a => Config.freeWord (s.draws + a.val) := rfl
@[simp] theorem forgetOperands_holdsOperands (s : State) :
    (forgetOperands s).holdsOperands = false := rfl
@[simp] theorem forgetOperands_wasReset (s : State) :
    (forgetOperands s).wasReset = s.wasReset := rfl
@[simp] theorem forgetOperands_decMode (s : State) : (forgetOperands s).decMode = s.decMode := rfl
@[simp] theorem forgetOperands_loopPins (s : State) :
    (forgetOperands s).loopPins = s.loopPins := rfl
@[simp] theorem forgetOperands_roundPins (s : State) :
    (forgetOperands s).roundPins = s.roundPins := rfl
@[simp] theorem forgetOperands_stateOut (s : State) :
    (forgetOperands s).stateOut = s.stateOut := rfl
@[simp] theorem forgetOperands_target (s : State) : (forgetOperands s).target = s.target := rfl
@[simp] theorem forgetOperands_trace (s : State) : (forgetOperands s).trace = s.trace := rfl
@[simp] theorem forgetOperands_draws (s : State) : (forgetOperands s).draws = s.draws + 8 := rfl

@[simp] theorem evaluateRound_sReg (d : Direction) (s : State) :
    (evaluateRound d s).sReg = s.sReg := rfl
@[simp] theorem evaluateRound_idx (d : Direction) (s : State) :
    (evaluateRound d s).idx = s.idx := rfl
@[simp] theorem evaluateRound_busy (d : Direction) (s : State) :
    (evaluateRound d s).busy = s.busy := rfl
@[simp] theorem evaluateRound_done (d : Direction) (s : State) :
    (evaluateRound d s).done = s.done := rfl
@[simp] theorem evaluateRound_dirr (d : Direction) (s : State) :
    (evaluateRound d s).dirr = s.dirr := rfl
@[simp] theorem evaluateRound_kr (d : Direction) (s : State) : (evaluateRound d s).kr = s.kr := rfl
@[simp] theorem evaluateRound_holdsOperands (d : Direction) (s : State) :
    (evaluateRound d s).holdsOperands = s.holdsOperands := rfl
@[simp] theorem evaluateRound_wasReset (d : Direction) (s : State) :
    (evaluateRound d s).wasReset = s.wasReset := rfl
@[simp] theorem evaluateRound_decMode (d : Direction) (s : State) :
    (evaluateRound d s).decMode = s.decMode := rfl
@[simp] theorem evaluateRound_loopPins (d : Direction) (s : State) :
    (evaluateRound d s).loopPins = s.loopPins := rfl
@[simp] theorem evaluateRound_roundPins (d : Direction) (s : State) :
    (evaluateRound d s).roundPins = { s.roundPins with dir := d } := rfl
@[simp] theorem evaluateRound_stateOut (d : Direction) (s : State) :
    (evaluateRound d s).stateOut = simonRound s.decMode s.roundPins.stateIn s.roundPins.roundKey d := rfl
@[simp] theorem evaluateRound_target (d : Direction) (s : State) :
    (evaluateRound d s).target = s.target := rfl
@[simp] theorem evaluateRound_trace (d : Direction) (s : State) :
    (evaluateRound d s).trace = s.trace := rfl
@[simp] theorem evaluateRound_draws (d : Direction) (s : State) :
    (evaluateRound d s).draws = s.draws := rfl

@[simp] theorem present_sReg (p : LoopPins) (s : State) : (present p s).sReg = s.sReg := rfl
@[simp] theorem present_idx (p : LoopPins) (s : State) : (present p s).idx = s.idx := rfl
@[simp] theorem present_busy (p : LoopPins) (s : State) : (present p s).busy = s.busy := rfl
@[simp] theorem present_done (p : LoopPins) (s : State) : (present p s).done = s.done := rfl
@[simp] theorem present_dirr (p : LoopPins) (s : State) : (present p s).dirr = s.dirr := rfl
@[simp] theorem present_kr (p : LoopPins) (s : State) : (present p s).kr = s.kr := rfl
@[simp] theorem present_holdsOperands (p : LoopPins) (s : State) :
    (present p s).holdsOperands = s.holdsOperands := rfl
@[simp] theorem present_wasReset (p : LoopPins) (s : State) :
    (present p s).wasReset = s.wasReset := rfl
@[simp] theorem present_decMode (p : LoopPins) (s : State) :
    (present p s).decMode = s.decMode := rfl
@[simp] theorem present_loopPins (p : LoopPins) (s : State) : (present p s).loopPins = p := rfl
@[simp] theorem present_roundPins (p : LoopPins) (s : State) :
    (present p s).roundPins = s.roundPins := rfl
@[simp] theorem present_stateOut (p : LoopPins) (s : State) :
    (present p s).stateOut = s.stateOut := rfl
@[simp] theorem present_target (p : LoopPins) (s : State) : (present p s).target = .loop := rfl
@[simp] theorem present_trace (p : LoopPins) (s : State) : (present p s).trace = s.trace := rfl
@[simp] theorem present_draws (p : LoopPins) (s : State) : (present p s).draws = s.draws := rfl

@[simp] theorem presentRound_sReg (p : RoundPins) (s : State) :
    (presentRound p s).sReg = s.sReg := rfl
@[simp] theorem presentRound_idx (p : RoundPins) (s : State) : (presentRound p s).idx = s.idx := rfl
@[simp] theorem presentRound_busy (p : RoundPins) (s : State) :
    (presentRound p s).busy = s.busy := rfl
@[simp] theorem presentRound_done (p : RoundPins) (s : State) :
    (presentRound p s).done = s.done := rfl
@[simp] theorem presentRound_dirr (p : RoundPins) (s : State) :
    (presentRound p s).dirr = s.dirr := rfl
@[simp] theorem presentRound_kr (p : RoundPins) (s : State) : (presentRound p s).kr = s.kr := rfl
@[simp] theorem presentRound_holdsOperands (p : RoundPins) (s : State) :
    (presentRound p s).holdsOperands = s.holdsOperands := rfl
@[simp] theorem presentRound_wasReset (p : RoundPins) (s : State) :
    (presentRound p s).wasReset = s.wasReset := rfl
@[simp] theorem presentRound_decMode (p : RoundPins) (s : State) :
    (presentRound p s).decMode = s.decMode := rfl
@[simp] theorem presentRound_loopPins (p : RoundPins) (s : State) :
    (presentRound p s).loopPins = s.loopPins := rfl
@[simp] theorem presentRound_roundPins (p : RoundPins) (s : State) :
    (presentRound p s).roundPins = p := rfl
@[simp] theorem presentRound_stateOut (p : RoundPins) (s : State) :
    (presentRound p s).stateOut = simonRound s.decMode p.stateIn p.roundKey p.dir := rfl
@[simp] theorem presentRound_target (p : RoundPins) (s : State) :
    (presentRound p s).target = .round := rfl
@[simp] theorem presentRound_trace (p : RoundPins) (s : State) :
    (presentRound p s).trace = s.trace := rfl
@[simp] theorem presentRound_draws (p : RoundPins) (s : State) :
    (presentRound p s).draws = s.draws := rfl

end Sys2Proof.Machine
end

