-- ==== Sys2Proof/Laws/Ops.lean ====
section
/-!
SUPPORT. One lemma per shared operation that says everything it can do; proofs cite these and do not
unfold the operation.
-/

namespace Sys2Proof.Machine

/-! ### Parameters (R6) -/

@[simp] theorem params_keyWords : Config.params.keyWords = 8 := rfl
@[simp] theorem params_rounds : Config.params.rounds = 32 := rfl
@[simp] theorem params_rotH1 : Config.params.rotH1 = -3 := rfl
@[simp] theorem params_rotH2 : Config.params.rotH2 = -8 := rfl
@[simp] theorem params_rotL1 : Config.params.rotL1 = -3 := rfl
@[simp] theorem params_rotL2 : Config.params.rotL2 = -8 := rfl
@[simp] theorem params_rotF1 : Config.params.rotF1 = 1 := rfl
@[simp] theorem params_rotF2 : Config.params.rotF2 = 8 := rfl
@[simp] theorem params_rotF3 : Config.params.rotF3 = 2 := rfl
@[simp] theorem params_decModeDefault : Config.params.decModeDefault = .literal := rfl

/-- The widths of the types are the widths of the record (R6). -/
theorem params_widths : Config.params.blockBits = 32 ∧ Config.params.wordBits = 16 ∧
    Config.params.idxBits = 5 ∧ Config.params.keyWords = 8 := ⟨rfl, rfl, rfl, rfl⟩

/-! ### The key word space -/

theorem keyAt_of_lt (key : KeyArray) (a : Nat) (h : a < 8) : keyAt key a = key[a] := by
  simp [keyAt, Nat.mod_eq_of_lt h]

/-- The reduction modulo 8 is part of the read (R33). -/
@[simp] theorem keyAt_mod (key : KeyArray) (a : Nat) : keyAt key (a % 8) = keyAt key a := by
  simp [keyAt]

theorem memRead_eq (space : KeyArray) (a : Nat) : memRead space a = keyAt space a := rfl

/-- A read after a write gives the value written, and every other word is as before (R33, R34). -/
theorem memRead_memWrite (space : KeyArray) (a : Fin 8) (v : Word) (b : Nat) :
    memRead (memWrite space a v) b = if a.val = b % 8 then v else memRead space b := by
  simp only [memRead, memWrite, keyAt, params_keyWords]
  rw [Vector.getElem_set]

/-! ### The host's line after a transition -/

theorem hostAdvance_nil {s : State} (h : s.trace = []) :
    hostAdvance s = { s with target := .loop } := by
  simp [hostAdvance, h]

theorem hostAdvance_cons {s : State} {d : Drive} {rest : List Drive} (h : s.trace = d :: rest) :
    hostAdvance s = applyDrive d { s with trace := rest } := by
  simp [hostAdvance, h]

/-- A line on the pins changes no register (R27, R35). -/
theorem applyDrive_kept (d : Drive) (s : State) : CoreKept s (applyDrive d s) := by
  cases d <;> exact ⟨⟨rfl, rfl, rfl, rfl, rfl, rfl⟩, rfl, rfl, rfl⟩

/-- What the host does between two transitions changes no register (R27, R35). -/
theorem hostAdvance_kept (s : State) : CoreKept s (hostAdvance s) := by
  cases h : s.trace with
  | nil => rw [hostAdvance_nil h]; exact ⟨⟨rfl, rfl, rfl, rfl, rfl, rfl⟩, rfl, rfl, rfl⟩
  | cons d rest =>
    rw [hostAdvance_cons h]
    obtain ⟨⟨h1, h2, h3, h4, h5, h6⟩, h7, h8, h9⟩ := applyDrive_kept d { s with trace := rest }
    exact ⟨⟨h1, h2, h3, h4, h5, h6⟩, h7, h8, h9⟩

@[simp] theorem hostAdvance_sReg (s : State) : (hostAdvance s).sReg = s.sReg :=
  (hostAdvance_kept s).registers.sReg.symm
@[simp] theorem hostAdvance_idx (s : State) : (hostAdvance s).idx = s.idx :=
  (hostAdvance_kept s).registers.idx.symm
@[simp] theorem hostAdvance_busy (s : State) : (hostAdvance s).busy = s.busy :=
  (hostAdvance_kept s).registers.busy.symm
@[simp] theorem hostAdvance_done (s : State) : (hostAdvance s).done = s.done :=
  (hostAdvance_kept s).registers.done.symm
@[simp] theorem hostAdvance_dirr (s : State) : (hostAdvance s).dirr = s.dirr :=
  (hostAdvance_kept s).registers.dirr.symm
@[simp] theorem hostAdvance_kr (s : State) : (hostAdvance s).kr = s.kr :=
  (hostAdvance_kept s).registers.kr.symm
@[simp] theorem hostAdvance_holdsOperands (s : State) :
    (hostAdvance s).holdsOperands = s.holdsOperands := (hostAdvance_kept s).holdsOperands
@[simp] theorem hostAdvance_wasReset (s : State) : (hostAdvance s).wasReset = s.wasReset :=
  (hostAdvance_kept s).wasReset
@[simp] theorem hostAdvance_decMode (s : State) : (hostAdvance s).decMode = s.decMode :=
  (hostAdvance_kept s).decMode

@[simp] theorem afterTransition_next (s : State) :
    afterTransition (.next s) = .next (hostAdvance s) := rfl

/-! ### The control word -/

/-- What each control word selects, by its bits (R49). -/
theorem decodeControl_controlBits (rst busy start : Bool) (dir : Direction) :
    decodeControl (controlBits rst busy start dir) =
      if rst then .reset busy start dir
      else if busy then .step start dir
      else if start then (match dir with | .encrypt => .enc | .decrypt => .dec)
      else .nop dir := by
  cases rst <;> cases busy <;> cases start <;> cases dir <;> decide

/-- A line for `simon64_round` fetches its Format R operation (R46, R47). -/
theorem fetch_round {s : State} (h : s.target = .round) :
    fetch s = .ok (match s.roundPins.dir with | .encrypt => .roundEnc | .decrypt => .roundDec) := by
  unfold fetch
  rw [h]
  cases hd : s.roundPins.dir <;> simp only [roundWord, hd] <;> rfl

/-- A sequencer step with `rst = 1` fetches RESET, whatever `BUSY` holds (R48, R115). -/
theorem fetch_reset {s : State} (h : s.target = .loop) (hr : s.loopPins.rst = true) :
    fetch s = .ok (.reset s.busy s.loopPins.start s.loopPins.dir) := by
  simp [fetch, h, hr, controlWord, decodeControl_controlBits]

/-- A sequencer step with `rst = 0` and `BUSY = 1` fetches STEP (R49). -/
theorem fetch_busy {s : State} (h : s.target = .loop) (hr : s.loopPins.rst = false)
    (hw : s.wasReset = true) (hb : s.busy = true) :
    fetch s = .ok (.step s.loopPins.start s.loopPins.dir) := by
  simp [fetch, h, hr, hw, hb, controlWord, decodeControl_controlBits]

/-- A sequencer step with `rst = 0`, `BUSY = 0`, `start = 1` fetches ENC or DEC (R49). -/
theorem fetch_start {s : State} (h : s.target = .loop) (hr : s.loopPins.rst = false)
    (hw : s.wasReset = true) (hb : s.busy = false) (hs : s.loopPins.start = true) :
    fetch s = .ok (match s.loopPins.dir with | .encrypt => .enc | .decrypt => .dec) := by
  simp [fetch, h, hr, hw, hb, hs, controlWord, decodeControl_controlBits]

/-- A sequencer step with `rst = 0`, `BUSY = 0`, `start = 0` fetches NOP (R49). -/
theorem fetch_nop {s : State} (h : s.target = .loop) (hr : s.loopPins.rst = false)
    (hw : s.wasReset = true) (hb : s.busy = false) (hs : s.loopPins.start = false) :
    fetch s = .ok (.nop s.loopPins.dir) := by
  simp [fetch, h, hr, hw, hb, hs, controlWord, decodeControl_controlBits]

/-- Before the first RESET a sequencer step with `rst = 0` is stuck (R116). -/
theorem fetch_stuck {s : State} (h : s.target = .loop) (hr : s.loopPins.rst = false)
    (hw : s.wasReset = false) : fetch s = .error .noTransitionBeforeReset := by
  simp [fetch, h, hr, hw]

/-! ### The meanings, and one step -/

/-- Everything a `STEP` does (R89). -/
theorem execStep_eq (s : State) :
    execStep s =
      if s.idx.toNat = 31 then
        .next { s with
          sReg := simonRound s.decMode s.sReg (memRead s.kr (kidx s.decMode s.idx.toNat s.dirr)) s.dirr
          idx := 0
          busy := false
          done := true }
      else
        .next { s with
          sReg := simonRound s.decMode s.sReg (memRead s.kr (kidx s.decMode s.idx.toNat s.dirr)) s.dirr
          idx := s.idx + 1 } := rfl

/-- The STEP that ends a run (R89). -/
theorem execStep_last {s : State} (h : s.idx.toNat = 31) :
    execStep s =
      .next { s with
        sReg := simonRound s.decMode s.sReg (memRead s.kr (kidx s.decMode s.idx.toNat s.dirr)) s.dirr
        idx := 0
        busy := false
        done := true } := by
  rw [execStep_eq, if_pos h]

/-- A STEP that does not end a run (R89). -/
theorem execStep_more {s : State} (h : s.idx.toNat ≠ 31) :
    execStep s =
      .next { s with
        sReg := simonRound s.decMode s.sReg (memRead s.kr (kidx s.decMode s.idx.toNat s.dirr)) s.dirr
        idx := s.idx + 1 } := by
  rw [execStep_eq, if_neg h]

theorem execReset_eq (s : State) :
    execReset s = .next (forgetOperands (flagsClear { s with idx := 0, wasReset := true })) := rfl
theorem execEnc_eq (s : State) : execEnc s = .next (captureOperands .encrypt s) := rfl
theorem execDec_eq (s : State) : execDec s = .next (captureOperands .decrypt s) := rfl
theorem execNop_eq (s : State) : execNop s = .next s := rfl
theorem execRoundEnc_eq (s : State) : execRoundEnc s = .next (evaluateRound .encrypt s) := rfl
theorem execRoundDec_eq (s : State) : execRoundDec s = .next (evaluateRound .decrypt s) := rfl

/-- Every meaning answers a next state (R81, R112). -/
theorem exec_next (i : Instr) (s : State) : ∃ t, exec i s = .next t := by
  cases i with
  | step st d =>
    simp only [exec, execStep_eq]
    split <;> exact ⟨_, rfl⟩
  | roundEnc => exact ⟨_, rfl⟩
  | roundDec => exact ⟨_, rfl⟩
  | reset b st d => exact ⟨_, rfl⟩
  | enc => exact ⟨_, rfl⟩
  | dec => exact ⟨_, rfl⟩
  | nop d => exact ⟨_, rfl⟩

/-- One step is the fetched operation, and then the host's next line. -/
theorem step_of_fetch {s : State} {i : Instr} (h : fetch s = .ok i) :
    step s = afterTransition (exec i s) := by
  simp [step, h]

theorem step_of_fetch_error {s : State} {r : Fault} (h : fetch s = .error r) :
    step s = .fault r := by
  simp [step, h]

/-- Everything a step that answers a next state can be: the fetched operation gave `u`, and `t` is
`u` with the host's next line on the pins. -/
theorem step_cases {s t : State} (h : step s = .next t) :
    ∃ i u, fetch s = .ok i ∧ exec i s = .next u ∧ t = hostAdvance u := by
  cases hf : fetch s with
  | error r => rw [step_of_fetch_error hf] at h; cases h
  | ok i =>
    obtain ⟨u, hu⟩ := exec_next i s
    rw [step_of_fetch hf, hu] at h
    exact ⟨i, u, rfl, hu, by cases h; rfl⟩

end Sys2Proof.Machine
end

