-- ==== Sys2Proof/Laws/PerInstr.lean ====
section
/-!
SUPPORT. The per-instruction family TableRow: the word of every instruction lies in its format and
in its row of the opcode table (30_encoding.md R47, R49, R58).
-/

namespace Sys2Proof.Laws.TableRow

/-- The `mask` of an instruction's row in the opcode table. -/
def rowMask : Instr → Nat
  | .roundEnc => 1
  | .roundDec => 1
  | .reset _ _ _ => 8
  | .step _ _ => 12
  | .enc => 15
  | .dec => 15
  | .nop _ => 14

/-- The `match` of an instruction's row in the opcode table. -/
def rowMatch : Instr → Nat
  | .roundEnc => 0
  | .roundDec => 1
  | .reset _ _ _ => 8
  | .step _ _ => 4
  | .enc => 2
  | .dec => 3
  | .nop _ => 0

/-- The word fits its format, and `(w & mask) == match` (R58). -/
def Statement (i : Instr) : Prop :=
  encode i < 2 ^ formatWidth (formatOf i) ∧ encode i &&& rowMask i = rowMatch i

theorem roundEnc : Statement .roundEnc := by unfold Statement; decide

theorem roundDec : Statement .roundDec := by unfold Statement; decide

theorem reset (busy start : Bool) (dir : Direction) : Statement (.reset busy start dir) := by
  unfold Statement; cases busy <;> cases start <;> cases dir <;> decide

theorem step (start : Bool) (dir : Direction) : Statement (.step start dir) := by
  unfold Statement; cases start <;> cases dir <;> decide

theorem enc : Statement .enc := by unfold Statement; decide

theorem dec : Statement .dec := by unfold Statement; decide

theorem nop (dir : Direction) : Statement (.nop dir) := by
  unfold Statement; cases dir <;> decide

end Sys2Proof.Laws.TableRow
end

