-- ==== Sys2Proof/Tests/Slice0.lean ====
section
/-!
SUPPORT. Tests of the model against the spec's worked examples (95_test_vectors.md and the rules'
own), words written out from the encodings, the well-formedness smoke test, and a witness for the
hypotheses of every statement that has some.
-/

open Sys2Proof Sys2Proof.Machine

/-! ### Operands and small states (95_test_vectors.md, "Named operands") -/

def testPlain : Block := 0x68776565

def testKey : KeyArray := #v[0x1918, 0x1110, 0x0908, 0x0100, 0x0706, 0x0504, 0x0302, 0x0100]

/-- A run in progress of direction `d` with `S = b` and `IDX = i` on the source's key (2.9). -/
def testRun (m : DecMode) (d : Direction) (b : Block) (i : RoundIndex) : State :=
  { State.reset with
    sReg := b, idx := i, busy := true, dirr := d, kr := testKey, holdsOperands := true, decMode := m }

/-- The end of the run of the source's vector (2.9). -/
def testDone : State :=
  { State.reset with sReg := 0x68779A9A, done := true, kr := testKey, holdsOperands := true }

/-- `simon64_round` with these levels on its pins. -/
def testRound (m : DecMode) (b : Block) (k : Word) : State :=
  presentRound ⟨b, k, .encrypt⟩ { State.reset with decMode := m }

/-- Whether an outcome is a next state that passes a check. -/
def nextIs (o : Host.Outcome State Fault Refusal) (check : State → Bool) : Bool :=
  match o with
  | .next t => check t
  | .fault _ => false
  | .refused _ => false

/-! ### WellFormed: each check refuses an ill-formed term (R52) -/

theorem test_wf_short_key_refused : TraceLine.wf (.enc testPlain [1, 2, 3, 4, 5, 6, 7]) = false := by
  decide
theorem test_wf_long_key_refused :
    TraceLine.wf (.dec testPlain [1, 2, 3, 4, 5, 6, 7, 8, 9]) = false := by decide
theorem test_wf_reset_line_refused : TraceLine.wf (.reset true .encrypt 0 []) = false := by decide
theorem test_wf_nop_line_refused : TraceLine.wf (.nop .encrypt 0 [0]) = false := by decide
theorem test_wf_step_line_refused : TraceLine.wf (.step true .decrypt 0 [0, 0]) = false := by decide
theorem test_wf_eight_words_accepted : TraceLine.wf (.enc testPlain testKey.toList) = true := by decide

/-! ### Decoding: every constructor from a word written out from the encoding (R45, R47, R49; 2.8) -/

/-- Format R, `d = 0`. -/
theorem test_decode_roundEnc : decode .r 0b0 = .ok .roundEnc := by decide
/-- Format R, `d = 1`. -/
theorem test_decode_roundDec : decode .r 0b1 = .ok .roundDec := by decide
/-- `rst = 1`, `busy = 1`, `start = 1`, `dir = 0`. -/
theorem test_decode_reset : decode .c 0b1110 = .ok (.reset true true .encrypt) := by decide
/-- `rst = 0`, `busy = 1`, `start = 1`, `dir = 0`: the request is dropped. -/
theorem test_decode_step : decode .c 0b0110 = .ok (.step true .encrypt) := by decide
/-- `rst = 0`, `busy = 0`, `start = 1`, `dir = 0`. -/
theorem test_decode_enc : decode .c 0b0010 = .ok .enc := by decide
/-- `rst = 0`, `busy = 0`, `start = 1`, `dir = 1`. -/
theorem test_decode_dec : decode .c 0b0011 = .ok .dec := by decide
/-- `rst = 0`, `busy = 0`, `start = 0`, `dir = 1`. -/
theorem test_decode_nop : decode .c 0b0001 = .ok (.nop .decrypt) := by decide
/-- A number wider than its format is refused by name (R46, R48). -/
theorem test_decode_refuses_wide_words :
    decode .r 2 = .error .widerThanFormatR ∧ decode .c 16 = .error .widerThanFormatC := by decide
/-- The table's own widths tell the two formats apart (log 9). -/
theorem test_table_words_by_width :
    decodeTableWord 1 0 = some .roundEnc ∧ decodeTableWord 4 0 = some (.nop .encrypt) ∧
    decodeTableWord 8 0 = some .roundEnc ∧ decodeTableWord 8 8 = some (.reset false false .encrypt) := by
  decide

/-! ### The seven operations -/

/-- 2.3, last row: the first round of the fixed vector. -/
theorem test_roundEnc_fixed_vector :
    nextIs (exec .roundEnc (testRound .literal 0x68776565 0x1918)) (·.stateOut == 0xB8A67DBF) = true := by
  decide
/-- 2.4: a vector on which the rejected readings of `new_lo` differ. -/
theorem test_roundEnc_uses_original_hi :
    nextIs (exec .roundEnc (testRound .literal 0x12345678 0x9ABC)) (·.stateOut == 0xFA11A739) = true := by
  decide
/-- 2.5, LITERAL, row 3. -/
theorem test_roundDec_literal :
    nextIs (exec .roundDec (testRound .literal 0xB8A67DBF 0x1918)) (·.stateOut == 0xB8A67DBF) = true := by
  decide
/-- 2.5, INTENDED, last row. -/
theorem test_roundDec_intended :
    nextIs (exec .roundDec (testRound .intended 0x68776565 0x1918)) (·.stateOut == 0x678C6C7B) = true := by
  decide
/-- 2.9, row 11: RESET in a run. -/
theorem test_reset_in_a_run :
    nextIs (exec (.reset true false .encrypt) (testRun .literal .encrypt 0xF97CBD54 2))
      (fun t => !t.busy && !t.done && t.idx == 0 && !t.holdsOperands) = true := by decide
/-- 2.9, row 1: RESET from power-up. -/
theorem test_reset_from_power_up :
    nextIs (step (present { lowLoopPins with rst := true } State.powerUp))
      (fun t => t.wasReset && !t.busy && t.idx == 0) = true := by
  rw [step_of_fetch (fetch_reset rfl rfl)]; rfl
/-- 2.9, row 10: the third STEP of the fixed vector, with a request on the pins. -/
theorem test_step_drops_request :
    nextIs (step (present ⟨false, true, .decrypt, 0xFFFFFFFF, zeroKey⟩
        (testRun .literal .encrypt 0xF97CBD54 2)))
      (fun t => t.sReg == 0x336394A2 && t.idx == 3 && t.kr == testKey) = true := by decide
/-- 2.9, rows 5 and 9: the last STEP, and an INTENDED Decrypt STEP that reads `KR[7]`. -/
theorem test_step_last_and_intended :
    nextIs (exec (.step false .encrypt) (testRun .literal .encrypt 0xA74C5344 31))
      (fun t => t.sReg == 0x68779A9A && t.idx == 0 && !t.busy && t.done) = true ∧
    nextIs (exec (.step false .encrypt) (testRun .intended .decrypt 0x68779A9A 0))
      (fun t => t.sReg == 0xA74C5344 && t.idx == 1 && t.busy) = true := by decide
/-- 2.9, row 3. -/
theorem test_enc_captures :
    nextIs (step (present (requestPins .encrypt testPlain testKey) State.reset))
      (fun t => t.sReg == 0x68776565 && t.kr == testKey && t.busy && t.dirr == .encrypt) = true := by
  decide
/-- 2.9, row 7: a request right after a run clears `DONE`. -/
theorem test_dec_after_a_run :
    nextIs (step (present (requestPins .decrypt 0x68779A9A testKey) testDone))
      (fun t => t.sReg == 0x68779A9A && t.busy && !t.done && t.dirr == .decrypt) = true := by decide
/-- 2.9, row 6: NOP keeps the result. -/
theorem test_nop_keeps_result :
    nextIs (step testDone) (fun t => t.sReg == 0x68779A9A && t.done) = true := by decide

/-! ### Word operations and the function level -/

/-- 2.1: a negative amount, and one that is a multiple of 16. -/
theorem test_rotl16 :
    rotl16 0x1234 (-19) = 0x8246 ∧ rotl16 0x1234 (-16) = 0x1234 ∧ rotl16 0x8001 17 = 0x0003 := by decide
/-- 2.2. -/
theorem test_fWord : fWord 0x1234 = 0x6CD0 ∧ fWord 0x8001 = 0x0006 := by decide
/-- 2.6: the regression baseline. -/
theorem test_encrypt_fixed_vector : encrypt testPlain testKey = 0x68779A9A := by
  decide +kernel
/-- 2.7, row 2, both modes. -/
theorem test_decrypt_modes :
    let key : KeyArray := #v[0xA5A5, 0x0F0F, 0x1234, 0xFFFF, 0x0000, 0x8001, 0x7FFE, 0xC3C3]
    decrypt .literal 0x30436332 key = 0x30436332 ∧ decrypt .intended 0x30436332 key = 0xDEADBEEF := by
  decide +kernel
/-- R52: the source's key list on the flat bus. -/
theorem test_keyFlat : keyFlat testKey = 0x01000302050407060100090811101918 := by decide
/-- R57: the micro-instruction word of the STEP at `IDX = 3` of a Decrypt run, `1 : 1 : 00011`. -/
theorem test_microWord : microWord (testRun .literal .decrypt 0 3) = 0b1100011 := by decide
/-- R56: `ENCRYPT` is 33 lines, and `WAIT` after three STEPs is 29. -/
theorem test_pseudo_operations :
    (encryptLines testPlain testKey).length = 33 ∧ (decryptLines testPlain testKey).length = 33 ∧
    (waitLines (testRun .literal .encrypt 0 3)).length = 29 := by decide
/-- R116: at power-up a step without a reset is stuck. -/
theorem test_power_up_is_stuck : step State.powerUp = .fault .noTransitionBeforeReset := by rfl

/-! ### Where the host places a table word, the next step runs it (log 10) -/

theorem test_withFetchWord_loop :
    fetch (State.reset.withFetchWord 4 0b0111) = .ok (.step true .decrypt) ∧
    fetch (State.powerUp.withFetchWord 4 0b0011) = .ok .dec ∧
    fetch (State.reset.withFetchWord 4 0b0001) = .ok (.nop .decrypt) := by decide
theorem test_withFetchWord_round : fetch (State.reset.withFetchWord 1 1) = .ok .roundDec := by decide

/-! ### Witnesses: the hypotheses of each statement are met together -/

def steps32 : List Drive := List.replicate 32 (.loop lowLoopPins)

theorem witness_RotationMovesEachBit :
    ∃ (i m m' : Nat) (n n' z : Int), i < 16 ∧ 1 ≤ m ∧ m ≤ 15 ∧ n % 16 = (m : Int) ∧ m = 1 ∧
      m' = 15 ∧ n' % 16 = (m' : Int) ∧ z % 16 = 0 := ⟨15, 1, 15, -15, -1, -16, by decide⟩
theorem witness_RotationByComplementUndoes :
    ∃ n n' : Int, (0 ≤ n ∧ n ≤ 15 ∧ n = 0) ∧ (0 ≤ n' ∧ n' ≤ 15 ∧ n' = 15) := ⟨0, 15, by decide⟩
theorem witness_RotationAlgebra : ∃ a : Int, a % 16 = 0 ∧ a ≠ 0 := ⟨-16, by decide⟩
theorem witness_KeyBusCarriesEveryWord : ∃ i : Nat, i < 8 ∧ i = 7 := ⟨7, by decide⟩
theorem witness_LiteralRoundDecPassesThrough :
    ∃ s : State, s.decMode = .literal ∧ s.roundPins.stateIn = testPlain :=
  ⟨testRound .literal testPlain 0x1918, rfl, rfl⟩
theorem witness_IntendedRoundDecUndoesRoundEnc :
    ∃ (s : State) (b : Block), s.decMode = .intended ∧
      s.roundPins.stateIn = fwd b s.roundPins.roundKey :=
  ⟨testRound .intended 0xB8A67DBF 0x1918, testPlain, by decide⟩
theorem witness_TheTwoBlocksLeaveEachOtherAlone :
    ∃ (i i' : Instr) (s t t' : State), exec i s = .next t ∧ formatOf i = .r ∧
      exec i' s = .next t' ∧ formatOf i' = .c :=
  ⟨.roundEnc, .enc, testDone, _, _, rfl, rfl, rfl, rfl⟩
theorem witness_RunComputesTheFunctionLevel :
    ∃ (s : State) (lines : List Drive) (j j' : Nat), Idle s ∧ lines.length = 32 ∧
      (∀ l ∈ lines, noResetLine l = true) ∧ j ≤ 31 ∧ j = 0 ∧ j' ≤ 31 ∧ j' = 31 :=
  ⟨testDone, steps32, 0, 31, ⟨rfl, rfl, rfl⟩, by decide⟩
theorem witness_ResultDependsOnOperandsOnly :
    ∃ (s s' : State) (lines lines' : List Drive), Idle s ∧ Idle s' ∧ s.decMode = s'.decMode ∧
      s ≠ s' ∧ lines.length = 32 ∧ lines'.length = 32 ∧
      (∀ l ∈ lines, noResetLine l = true) ∧ (∀ l ∈ lines', noResetLine l = true) :=
  ⟨State.reset, testDone, steps32,
    List.replicate 32 (.loop (requestPins .decrypt testPlain testKey)),
    ⟨rfl, rfl, rfl⟩, ⟨rfl, rfl, rfl⟩, by decide⟩
theorem witness_MaskIsLinearInTheKey : ∃ w w' : Nat, w < 8 ∧ w = 0 ∧ w' < 8 ∧ w' = 7 := ⟨0, 7, by decide⟩
theorem witness_DecryptRunAfterEncryptRun :
    ∃ (s s' : State) (lines lines' : List Drive), Idle s ∧ s.decMode = .literal ∧
      Idle s' ∧ s'.decMode = .intended ∧ lines.length = 32 ∧ lines'.length = 32 ∧
      (∀ l ∈ lines, noResetLine l = true) ∧ (∀ l ∈ lines', noResetLine l = true) :=
  ⟨State.reset, { State.reset with decMode := .intended }, steps32, steps32,
    ⟨rfl, rfl, rfl⟩, rfl, ⟨rfl, rfl, rfl⟩, by decide⟩
theorem witness_EveryRunEndsInBoundedSteps :
    ∃ (s s' : State) (lines lines' : List Drive),
      s.wasReset = true ∧ s.busy = true ∧ (∀ l ∈ lines, noResetLine l = true) ∧
      lines.length < 32 - s.idx.toNat ∧ lines.length = 31 ∧
      s'.wasReset = true ∧ s'.busy = true ∧ (∀ l ∈ lines', noResetLine l = true) ∧
      lines'.length = 32 - s'.idx.toNat ∧ lines'.length = 1 :=
  ⟨testRun .literal .encrypt testPlain 0, testRun .literal .encrypt testPlain 31,
    List.replicate 31 (.loop lowLoopPins), [.loop lowLoopPins], by decide⟩
theorem witness_ResetBringsTheSequencerToIdle :
    ∃ w w' : BitVec 4, w.getLsbD 3 = true ∧ w = 8 ∧ w'.getLsbD 3 = true ∧ w' = 15 := ⟨8, 15, by decide⟩
theorem witness_ResetHasPriorityOverEverything :
    ∃ pins : List LoopPins, pins ≠ [] ∧ ∀ p ∈ pins, p.rst = true :=
  ⟨[{ requestPins .decrypt testPlain testKey with rst := true }], by decide⟩
theorem witness_OnlyItsLastStepOrResetEndsARun :
    ∃ s s' : State, s.wasReset = true ∧ s.busy = true ∧ SequencerTurn s ∧ s.idx = 31 ∧
      s'.wasReset = true ∧ s'.busy = true ∧ s'.target = .loop ∧ s'.loopPins.rst = true :=
  ⟨testRun .literal .encrypt testPlain 31,
    present { lowLoopPins with rst := true } (testRun .literal .encrypt testPlain 5),
    rfl, rfl, ⟨rfl, rfl⟩, rfl, rfl, rfl, rfl, rfl⟩
theorem witness_StuckUntilTheFirstReset :
    ∃ (s : State) (p q : LoopPins), s.wasReset = false ∧ p.rst = false ∧ q.rst = true :=
  ⟨State.powerUp, lowLoopPins, { lowLoopPins with rst := true }, rfl, rfl, rfl⟩
theorem witness_EveryStepKeepsCoreInv : ∃ s t : State, CoreInv s ∧ step s = .next t :=
  ⟨testRun .literal .encrypt testPlain 31, _,
    ⟨by decide, by decide, by decide, by decide, by decide, by unfold RoundSettled; decide⟩, rfl⟩
theorem witness_EveryStepOfARunKeepsItsValue :
    ∃ (s s' s'' : State) (d d' : Direction) (b : Block) (key : KeyArray),
      (InRun d b key 0 s ∧ SequencerTurn s) ∧ (InRun d' b key 31 s' ∧ SequencerTurn s') ∧
      (InRun d b key 0 s'' ∧ s''.target = .round) :=
  ⟨testRun .literal .encrypt testPlain 0, testRun .literal .decrypt testPlain 31,
    presentRound lowRoundPins (testRun .literal .encrypt testPlain 0), .encrypt, .decrypt, testPlain,
    testKey,
    ⟨⟨by decide, rfl, rfl, rfl, rfl, rfl, rfl, rfl, rfl⟩, rfl, rfl⟩,
    ⟨⟨by decide, rfl, rfl, rfl, rfl, rfl, rfl, rfl, by decide⟩, rfl, rfl⟩,
    ⟨⟨by decide, rfl, rfl, rfl, rfl, rfl, rfl, rfl, rfl⟩, rfl⟩⟩
theorem testDone_runDone : RunDone .encrypt testPlain testKey testDone :=
  ⟨rfl, rfl, rfl, rfl, rfl, rfl, rfl, by decide +kernel⟩
theorem witness_ResultIsHeldUntilTheNextRequest :
    ∃ s s' : State, (RunDone .encrypt testPlain testKey s ∧ SequencerTurn s ∧
      s.loopPins.start = false) ∧ (RunDone .encrypt testPlain testKey s' ∧ s'.target = .round) :=
  ⟨testDone, presentRound lowRoundPins testDone,
    ⟨testDone_runDone, ⟨rfl, rfl⟩, rfl⟩,
    ⟨⟨rfl, rfl, rfl, rfl, rfl, rfl, rfl, testDone_runDone.value⟩, rfl⟩⟩
theorem witness_StatusBitsChangeOnlyAsNamed :
    ∃ (i i' : Instr) (s s' t t' : State), (exec i s = .next t ∧ t.busy ≠ s.busy ∧ t.done ≠ s.done) ∧
      (exec i' s' = .next t' ∧ t'.busy ≠ s'.busy ∧ t'.done ≠ s'.done) :=
  ⟨.enc, .step false .encrypt, testDone, testRun .literal .encrypt testPlain 31, _, _,
    ⟨rfl, by decide, by decide⟩, ⟨rfl, by decide, by decide⟩⟩
theorem witness_EachRegisterHasOnlyItsNamedWriters :
    ∃ (i i' : Instr) (s s' t t' : State),
      (exec i s = .next t ∧ t.sReg ≠ s.sReg ∧ t.dirr ≠ s.dirr ∧ t.kr ≠ s.kr) ∧
      (exec i' s' = .next t' ∧ t'.idx ≠ s'.idx) :=
  ⟨.dec, .step false .encrypt, testDone, testRun .literal .encrypt testPlain 0, _, _,
    ⟨rfl, by decide, by decide, by decide⟩, ⟨rfl, by decide⟩⟩
theorem witness_KeyAndDirectionAreFixedDuringARun :
    ∃ (s : State) (l : Drive), s.wasReset = true ∧ s.busy = true ∧
      ∀ p, l = .loop p → p.rst = false :=
  ⟨testRun .literal .encrypt testPlain 0, .loop lowLoopPins, rfl, rfl, by intro p h; cases h; rfl⟩
theorem witness_RequestDuringARunIsDropped :
    ∃ (s : State) (p q : LoopPins), s.wasReset = true ∧ s.busy = true ∧ p.rst = false ∧
      q.rst = false ∧ p ≠ q :=
  ⟨testRun .literal .encrypt testPlain 31, lowLoopPins, requestPins .decrypt 0 testKey, by decide⟩
theorem witness_ConfigurationIsFixedForEver : ∃ s t : State, step s = .next t := ⟨testDone, _, rfl⟩
theorem witness_BlockOutIsReadableExactlyWhenDone :
    ∃ s s' : State, (CoreInv s ∧ s.wasReset = true ∧ s.done = true) ∧
      (CoreInv s' ∧ s'.wasReset = true ∧ s'.done = false) :=
  ⟨testDone, testRun .literal .encrypt testPlain 7,
    ⟨⟨by decide, by decide, by decide, by decide, by decide, by unfold RoundSettled; decide⟩, rfl, rfl⟩,
    ⟨⟨by decide, by decide, by decide, by decide, by decide, by unfold RoundSettled; decide⟩, rfl, rfl⟩⟩
theorem witness_SequencerIsNeverStuckAfterReset :
    ∃ s : State, s.wasReset = true ∧ s.target = .loop := ⟨State.reset, by decide⟩
theorem witness_DecodeAndEncodeAgree :
    ∃ (i j j' : Instr) (w w' : Nat), i.wf = true ∧ decode .r w = .ok j ∧ w = 1 ∧
      decode .c w' = .ok j' ∧ w' = 15 := ⟨.enc, _, _, 1, 15, rfl, rfl, rfl, rfl, rfl⟩
theorem witness_StepRunsTheDecodedInstruction :
    ∃ (s s' s'' t t' t'' : State) (i i' i'' : Instr) (p : LoopPins) (q : RoundPins),
      (s.target = .loop ∧ (s.wasReset = true ∨ s.loopPins.rst = true) ∧
        decode .c (controlBits s.loopPins.rst s.busy s.loopPins.start s.loopPins.dir).toNat = .ok i) ∧
      (s'.target = .loop ∧ (s'.wasReset = true ∨ s'.loopPins.rst = true) ∧ s'.wasReset = false ∧
        decode .c (controlBits s'.loopPins.rst s'.busy s'.loopPins.start s'.loopPins.dir).toNat
          = .ok i') ∧
      (s''.target = .round ∧ decode .r (BitVec.ofBool (dirBit s''.roundPins.dir)).toNat = .ok i'') ∧
      t.trace = [] ∧ t'.trace = [.loop p] ∧ t''.trace = [.round q] :=
  ⟨testDone,
    present { lowLoopPins with rst := true } { State.reset with wasReset := false },
    presentRound lowRoundPins State.reset,
    State.reset, { State.reset with trace := [.loop lowLoopPins] },
    { State.reset with trace := [.round lowRoundPins] },
    .nop .encrypt, .reset false false .encrypt, .roundEnc, lowLoopPins, lowRoundPins, by decide⟩
theorem witness_TraceLineTakesItsOwnOperation :
    ∃ (line : TraceLine) (l : Drive) (s : State), lineDrive line = some l ∧ s.wasReset = true ∧
      lineFits s.busy line = true :=
  ⟨.step true .decrypt 0 testKey.toList, .loop ⟨false, true, .decrypt, 0, testKey⟩,
    testRun .literal .encrypt testPlain 2, by decide⟩
theorem witness_LoadedTraceRunsAsDriven :
    ∃ (s : State) (lines : List Drive), s.wasReset = true ∧ lines ≠ [] :=
  ⟨State.reset, steps32, by decide⟩
end

section
/-!
SUPPORT. The step by cases: what `fetch` selects and when, what the selected operation does, and the
equation of a step in each case. Proofs about steps split along these two relations and do not open
`fetch`, `exec` or `step` again.
-/

namespace Sys2Proof.Machine

/-- What a STEP writes to `S`: one round with the key word at `kidx(IDX, DIRR)` (R89). -/
def stepValue (s : State) : Block :=
  simonRound s.decMode s.sReg (memRead s.kr (kidx s.decMode s.idx.toNat s.dirr)) s.dirr

/-- The last round index, read as a number (R89). -/
theorem idx_eq_31_iff {i : RoundIndex} : i = 31 ↔ i.toNat = 31 :=
  (BitVec.toNat_inj (x := i) (y := 31)).symm

/-- The operation the pins and `BUSY` select, with everything that its selection tells (R49, R116). -/
inductive Selected (s : State) : Instr → Prop
  | roundEnc (target : s.target = .round) (dir : s.roundPins.dir = .encrypt) : Selected s .roundEnc
  | roundDec (target : s.target = .round) (dir : s.roundPins.dir = .decrypt) : Selected s .roundDec
  | reset (target : s.target = .loop) (rst : s.loopPins.rst = true) :
      Selected s (.reset s.busy s.loopPins.start s.loopPins.dir)
  | step (turn : SequencerTurn s) (wasReset : s.wasReset = true) (busy : s.busy = true) :
      Selected s (.step s.loopPins.start s.loopPins.dir)
  | enc (turn : SequencerTurn s) (wasReset : s.wasReset = true) (notBusy : s.busy = false)
      (start : s.loopPins.start = true) (dir : s.loopPins.dir = .encrypt) : Selected s .enc
  | dec (turn : SequencerTurn s) (wasReset : s.wasReset = true) (notBusy : s.busy = false)
      (start : s.loopPins.start = true) (dir : s.loopPins.dir = .decrypt) : Selected s .dec
  | nop (turn : SequencerTurn s) (wasReset : s.wasReset = true) (notBusy : s.busy = false)
      (noStart : s.loopPins.start = false) : Selected s (.nop s.loopPins.dir)

/-- What each operation makes of the state (R74 to R77, R84 to R89, R113). -/
inductive Effect (s : State) : Instr → State → Prop
  | roundEnc : Effect s .roundEnc (evaluateRound .encrypt s)
  | roundDec : Effect s .roundDec (evaluateRound .decrypt s)
  | reset (busy start : Bool) (dir : Direction) :
      Effect s (.reset busy start dir)
        (forgetOperands (flagsClear { s with idx := 0, wasReset := true }))
  | stepLast (start : Bool) (dir : Direction) (last : s.idx = 31) :
      Effect s (.step start dir)
        { s with sReg := stepValue s, idx := 0, busy := false, done := true }
  | stepMore (start : Bool) (dir : Direction) (more : s.idx ≠ 31) :
      Effect s (.step start dir) { s with sReg := stepValue s, idx := s.idx + 1 }
  | enc : Effect s .enc (captureOperands .encrypt s)
  | dec : Effect s .dec (captureOperands .decrypt s)
  | nop (dir : Direction) : Effect s (.nop dir) s

theorem fetch_of_selected {s : State} {i : Instr} (h : Selected s i) : fetch s = .ok i := by
  cases h with
  | roundEnc target dir => rw [fetch_round target, dir]
  | roundDec target dir => rw [fetch_round target, dir]
  | reset target rst => exact fetch_reset target rst
  | step turn wasReset busy => exact fetch_busy turn.1 turn.2 wasReset busy
  | enc turn wasReset notBusy start dir =>
    rw [fetch_start turn.1 turn.2 wasReset notBusy start, dir]
  | dec turn wasReset notBusy start dir =>
    rw [fetch_start turn.1 turn.2 wasReset notBusy start, dir]
  | nop turn wasReset notBusy noStart => exact fetch_nop turn.1 turn.2 wasReset notBusy noStart

/-- A step that is not the stuck one of R116 has a selected operation. -/
theorem exists_selected {s : State}
    (h : s.target = .round ∨ s.loopPins.rst = true ∨ s.wasReset = true) : ∃ i, Selected s i := by
  cases ht : s.target with
  | round =>
    cases hd : s.roundPins.dir with
    | encrypt => exact ⟨_, .roundEnc ht hd⟩
    | decrypt => exact ⟨_, .roundDec ht hd⟩
  | loop =>
    cases hr : s.loopPins.rst with
    | true => exact ⟨_, .reset ht hr⟩
    | false =>
      have hw : s.wasReset = true := by simpa [ht, hr] using h
      cases hb : s.busy with
      | true => exact ⟨_, .step ⟨ht, hr⟩ hw hb⟩
      | false =>
        cases hs : s.loopPins.start with
        | false => exact ⟨_, .nop ⟨ht, hr⟩ hw hb hs⟩
        | true =>
          cases hd : s.loopPins.dir with
          | encrypt => exact ⟨_, .enc ⟨ht, hr⟩ hw hb hs hd⟩
          | decrypt => exact ⟨_, .dec ⟨ht, hr⟩ hw hb hs hd⟩

/-- `fetch` answers exactly the selected operation. -/
theorem fetch_eq_ok_iff {s : State} {i : Instr} : fetch s = .ok i ↔ Selected s i := by
  refine ⟨fun h => ?_, fetch_of_selected⟩
  have hlive : s.target = .round ∨ s.loopPins.rst = true ∨ s.wasReset = true := by
    by_contra hstuck
    push Not at hstuck
    obtain ⟨ht, hr, hw⟩ := hstuck
    have hloop : s.target = .loop := by
      cases htarget : s.target with
      | loop => rfl
      | round => exact absurd htarget ht
    rw [fetch_stuck hloop (Bool.eq_false_of_not_eq_true hr) (Bool.eq_false_of_not_eq_true hw)] at h
    cases h
  obtain ⟨i', hsel⟩ := exists_selected hlive
  rw [fetch_of_selected hsel] at h
  cases h
  exact hsel

theorem exec_of_effect {s t : State} {i : Instr} (h : Effect s i t) : exec i s = .next t := by
  cases h with
  | stepLast start dir last => exact execStep_last (idx_eq_31_iff.1 last)
  | stepMore start dir more => exact execStep_more (mt idx_eq_31_iff.2 more)
  | _ => rfl

theorem exists_effect (i : Instr) (s : State) : ∃ t, Effect s i t := by
  cases i with
  | roundEnc => exact ⟨_, .roundEnc⟩
  | roundDec => exact ⟨_, .roundDec⟩
  | reset busy start dir => exact ⟨_, .reset busy start dir⟩
  | step start dir =>
    by_cases h : s.idx = 31
    · exact ⟨_, .stepLast start dir h⟩
    · exact ⟨_, .stepMore start dir h⟩
  | enc => exact ⟨_, .enc⟩
  | dec => exact ⟨_, .dec⟩
  | nop dir => exact ⟨_, .nop dir⟩

/-- `exec` answers exactly what the effect of its operation says. -/
theorem exec_eq_next_iff {s t : State} {i : Instr} : exec i s = .next t ↔ Effect s i t := by
  refine ⟨fun h => ?_, exec_of_effect⟩
  obtain ⟨t', heff⟩ := exists_effect i s
  rw [exec_of_effect heff] at h
  cases h
  exact heff

/-- The step of a selected operation is its effect, and then the host's next line. -/
theorem step_of_selected {s u : State} {i : Instr} (hsel : Selected s i) (heff : Effect s i u) :
    step s = .next (hostAdvance u) := by
  rw [step_of_fetch (fetch_of_selected hsel), exec_of_effect heff, afterTransition_next]

/-- Everything a step that answers a next state can be, guards included. -/
theorem selected_effect_of_step {s t : State} (h : step s = .next t) :
    ∃ i u, Selected s i ∧ Effect s i u ∧ t = hostAdvance u := by
  obtain ⟨i, u, hf, he, ht⟩ := step_cases h
  exact ⟨i, u, fetch_eq_ok_iff.1 hf, exec_eq_next_iff.1 he, ht⟩

/-! ### The step in each case -/

/-- A line for `simon64_round` evaluates it at the levels on its pins. -/
theorem step_round {s : State} (h : s.target = .round) :
    step s = .next (hostAdvance (evaluateRound s.roundPins.dir s)) := by
  cases hd : s.roundPins.dir with
  | encrypt => exact step_of_selected (.roundEnc h hd) .roundEnc
  | decrypt => exact step_of_selected (.roundDec h hd) .roundDec

/-- The STEP that ends a run (R89). -/
theorem step_last {s : State} (ht : SequencerTurn s) (hw : s.wasReset = true) (hb : s.busy = true)
    (h : s.idx = 31) :
    step s = .next (hostAdvance
      { s with sReg := stepValue s, idx := 0, busy := false, done := true }) :=
  step_of_selected (.step ht hw hb) (.stepLast _ _ h)

/-- A STEP that does not end a run (R89). -/
theorem step_more {s : State} (ht : SequencerTurn s) (hw : s.wasReset = true) (hb : s.busy = true)
    (h : s.idx ≠ 31) :
    step s = .next (hostAdvance { s with sReg := stepValue s, idx := s.idx + 1 }) :=
  step_of_selected (.step ht hw hb) (.stepMore _ _ h)

/-- Without a request an idle sequencer takes NOP, which changes nothing (R84). -/
theorem step_nop {s : State} (ht : SequencerTurn s) (hw : s.wasReset = true) (hb : s.busy = false)
    (hs : s.loopPins.start = false) : step s = .next (hostAdvance s) :=
  step_of_selected (.nop ht hw hb hs) (.nop _)

end Sys2Proof.Machine
end

section
/-!
SUPPORT. What depends on the core alone is kept by whatever keeps the core (`CoreKept`): the
invariants, a run, its end, and the reading of `block_out`.
-/

namespace Sys2Proof.Machine

theorem CoreKept.trans {s t u : State} (h : CoreKept s t) (k : CoreKept t u) : CoreKept s u where
  registers :=
    { sReg := h.registers.sReg.trans k.registers.sReg
      idx := h.registers.idx.trans k.registers.idx
      busy := h.registers.busy.trans k.registers.busy
      done := h.registers.done.trans k.registers.done
      dirr := h.registers.dirr.trans k.registers.dirr
      kr := h.registers.kr.trans k.registers.kr }
  holdsOperands := k.holdsOperands.trans h.holdsOperands
  wasReset := k.wasReset.trans h.wasReset
  decMode := k.decMode.trans h.decMode

/-- An evaluation of `simon64_round` writes no register of the core (R15, R74). -/
theorem evaluateRound_kept (d : Direction) (s : State) : CoreKept s (evaluateRound d s) :=
  ⟨⟨rfl, rfl, rfl, rfl, rfl, rfl⟩, rfl, rfl, rfl⟩

/-- A whole step of `simon64_round` writes no register of the core. -/
theorem roundStep_kept (d : Direction) (s : State) :
    CoreKept s (hostAdvance (evaluateRound d s)) :=
  (evaluateRound_kept d s).trans (hostAdvance_kept _)

theorem readBlockOut_of_kept {s t : State} (k : CoreKept s t) :
    readBlockOut t = readBlockOut s := by
  obtain ⟨⟨hS, -, -, hdone, -, -⟩, hholds, hwas, -⟩ := k
  simp only [readBlockOut, hS, hdone, hholds, hwas]

theorem InRun.of_kept {d : Direction} {b : Block} {key : KeyArray} {j : Nat} {s t : State}
    (h : InRun d b key j s) (k : CoreKept s t) : InRun d b key j t where
  early := h.early
  wasReset := k.wasReset.trans h.wasReset
  busy := k.registers.busy.symm.trans h.busy
  notDone := k.registers.done.symm.trans h.notDone
  holds := k.holdsOperands.trans h.holds
  index := k.registers.idx.symm.trans h.index
  direction := k.registers.dirr.symm.trans h.direction
  keyKept := k.registers.kr.symm.trans h.keyKept
  value := by rw [k.decMode, ← k.registers.sReg, h.value]

theorem RunDone.of_kept {d : Direction} {b : Block} {key : KeyArray} {s t : State}
    (h : RunDone d b key s) (k : CoreKept s t) : RunDone d b key t where
  wasReset := k.wasReset.trans h.wasReset
  notBusy := k.registers.busy.symm.trans h.notBusy
  done := k.registers.done.symm.trans h.done
  holds := k.holdsOperands.trans h.holds
  index := k.registers.idx.symm.trans h.index
  direction := k.registers.dirr.symm.trans h.direction
  keyKept := k.registers.kr.symm.trans h.keyKept
  value := by rw [k.decMode, ← k.registers.sReg, h.value]

/-- The invariants speak of the core and of `simon64_round` apart. -/
theorem CoreInv.of_kept {s t : State} (h : CoreInv s) (k : CoreKept s t) (hr : RoundSettled t) :
    CoreInv t where
  notBusyAndDone := by
    simpa only [k.wasReset, ← k.registers.busy, ← k.registers.done] using h.notBusyAndDone
  idleAtZero := by
    simpa only [k.wasReset, ← k.registers.busy, ← k.registers.idx] using h.idleAtZero
  busyHolds := by
    simpa only [k.wasReset, ← k.registers.busy, k.holdsOperands] using h.busyHolds
  doneHolds := by
    simpa only [k.wasReset, ← k.registers.done, k.holdsOperands] using h.doneHolds
  nothingHeld := by simpa only [k.wasReset, k.holdsOperands] using h.nothingHeld
  roundSettled := hr

end Sys2Proof.Machine
end

section
/-!
The invariants of the state (10_state.md R29): each transition keeps them, the host's next line keeps
them, and so every step does.
-/

namespace Sys2Proof.Machine

theorem evaluateRound_settled (d : Direction) (s : State) : RoundSettled (evaluateRound d s) := rfl

/-- `state_out` follows whatever the host puts on the pins (R15). -/
theorem RoundSettled.applyDrive {s : State} (h : RoundSettled s) (l : Drive) :
    RoundSettled (applyDrive l s) := by
  cases l with
  | loop p => exact h
  | round p => rfl

theorem RoundSettled.hostAdvance {s : State} (h : RoundSettled s) : RoundSettled (hostAdvance s) := by
  cases htr : s.trace with
  | nil => rw [hostAdvance_nil htr]; exact h
  | cons l rest =>
    rw [hostAdvance_cons htr]
    exact RoundSettled.applyDrive (s := { s with trace := rest }) h l

theorem CoreInv.hostAdvance {s : State} (h : CoreInv s) : CoreInv (hostAdvance s) :=
  h.of_kept (hostAdvance_kept s) h.roundSettled.hostAdvance

theorem CoreInv.evaluateRound {s : State} (h : CoreInv s) (d : Direction) :
    CoreInv (evaluateRound d s) :=
  h.of_kept (evaluateRound_kept d s) (evaluateRound_settled d s)

/-- ENC and DEC keep the invariants: a run begins only after a RESET. -/
theorem CoreInv.captureOperands {s : State} (h : CoreInv s) (hw : s.wasReset = true)
    (d : Direction) : CoreInv (captureOperands d s) where
  notBusyAndDone := by simp
  idleAtZero := by simp
  busyHolds := by simp
  doneHolds := by simp
  nothingHeld := by simp [hw]
  roundSettled := h.roundSettled

/-- RESET keeps the invariants: nothing is held, and nothing is claimed to be. -/
theorem CoreInv.reset {s : State} (h : CoreInv s) :
    CoreInv (forgetOperands (flagsClear { s with idx := 0, wasReset := true })) where
  notBusyAndDone := by simp
  idleAtZero := by simp
  busyHolds := by simp
  doneHolds := by simp
  nothingHeld := by simp
  roundSettled := h.roundSettled

/-- The last STEP keeps the invariants: the operands of the run are still held at its end. -/
theorem CoreInv.stepLast {s : State} (h : CoreInv s) (hw : s.wasReset = true)
    (hb : s.busy = true) (v : Block) :
    CoreInv { s with sReg := v, idx := 0, busy := false, done := true } where
  notBusyAndDone := by simp
  idleAtZero := by simp
  busyHolds := by simp
  doneHolds := fun _ _ => h.busyHolds hw hb
  nothingHeld := h.nothingHeld
  roundSettled := h.roundSettled

/-- A STEP before the last keeps the invariants: `BUSY` stays 1, so `IDX` may be anything. -/
theorem CoreInv.stepMore {s : State} (h : CoreInv s) (hb : s.busy = true) (v : Block)
    (n : RoundIndex) : CoreInv { s with sReg := v, idx := n } where
  notBusyAndDone := h.notBusyAndDone
  idleAtZero := by simp [hb]
  busyHolds := h.busyHolds
  doneHolds := h.doneHolds
  nothingHeld := h.nothingHeld
  roundSettled := h.roundSettled

/-- A selected operation keeps the invariants. -/
theorem CoreInv.effect {s u : State} {i : Instr} (h : CoreInv s) (hsel : Selected s i)
    (heff : Effect s i u) : CoreInv u := by
  cases heff with
  | roundEnc => exact h.evaluateRound .encrypt
  | roundDec => exact h.evaluateRound .decrypt
  | reset busy start dir => exact h.reset
  | stepLast start dir last =>
    cases hsel with
    | step turn wasReset busy => exact h.stepLast wasReset busy _
  | stepMore start dir more =>
    cases hsel with
    | step turn wasReset busy => exact h.stepMore busy _ _
  | enc =>
    cases hsel with
    | enc turn wasReset notBusy start dir => exact h.captureOperands wasReset .encrypt
  | dec =>
    cases hsel with
    | dec turn wasReset notBusy start dir => exact h.captureOperands wasReset .decrypt
  | nop dir => exact h

/-- Settles O36: each effect keeps the invariants under the guard that selects it, and so does the
host's next line. -/
theorem everyStepKeepsCoreInv : Obligations.EveryStepKeepsCoreInv := by
  intro s t hinv hstep
  obtain ⟨i, u, hsel, heff, rfl⟩ := selected_effect_of_step hstep
  exact (hinv.effect hsel heff).hostAdvance

theorem reset_settled : RoundSettled State.reset := by
  unfold RoundSettled; decide

/-- Settles O35: after a RESET nothing is held, and before one the invariants of the registers ask
nothing. -/
theorem coreInvHoldsAtResetAndPowerUp : Obligations.CoreInvHoldsAtResetAndPowerUp := by
  constructor
  · exact ⟨by decide, fun _ _ => rfl, by decide, by decide, by decide, reset_settled⟩
  · have hw : State.powerUp.wasReset = false := rfl
    exact ⟨by simp [hw], by simp [hw], by simp [hw], by simp [hw], fun _ => rfl, reset_settled⟩

/-- Settles O34, by evaluating the two fixed states. -/
theorem resetStateIsIdleAndEmpty : Obligations.ResetStateIsIdleAndEmpty :=
  ⟨rfl, rfl, rfl, rfl, rfl, rfl, rfl, rfl, reset_settled, rfl, rfl, rfl, rfl, rfl⟩

theorem readBlockOut_of_done {s : State} (hw : s.wasReset = true) (hd : s.done = true)
    (hh : s.holdsOperands = true) : readBlockOut s = .ok s.sReg := by
  simp [readBlockOut, hw, hd, hh]

theorem readBlockOut_of_notDone {s : State} (hd : s.done = false) :
    readBlockOut s = .error .pinHasNoValue := by
  simp [readBlockOut, hd]

/-- Settles O44: with `DONE = 1` the invariants give that `S` holds a value. -/
theorem blockOutIsReadableExactlyWhenDone : Obligations.BlockOutIsReadableExactlyWhenDone := by
  intro s hinv hw
  exact ⟨fun hd => readBlockOut_of_done hw hd (hinv.doneHolds hw hd), readBlockOut_of_notDone⟩

end Sys2Proof.Machine
end

section
/-!
A run of the sequencer (42_simon64_cipher_loop.md R89, R91, R94, R99): what one STEP does to it, how
many it takes, and that its result is held.
-/

namespace Sys2Proof.Machine

/-- One round with the key word of `kidx` takes the function level from `s_j` to `s_(j+1)`
(R88, R92, R93). -/
theorem simonRound_runRounds (m : DecMode) (d : Direction) (b : Block) (key : KeyArray) (j : Nat) :
    simonRound m (runRounds m d b key j) (memRead key (kidx m j d)) d =
      runRounds m d b key (j + 1) := by
  cases d with
  | encrypt => rfl
  | decrypt => cases m <;> rfl

/-- A run's result is the value after its 32 rounds (R92, R93). -/
theorem runRounds_all (m : DecMode) (d : Direction) (b : Block) (key : KeyArray) :
    runRounds m d b key 32 = runResult m d b key := by
  cases d <;> rfl

section
variable {d : Direction} {b : Block} {key : KeyArray} {j : Nat} {s : State}

theorem InRun.idx_toNat (h : InRun d b key j s) : s.idx.toNat = j := by
  rw [h.index, BitVec.toNat_ofNat, Nat.mod_eq_of_lt h.early]

theorem InRun.idx_last_iff (h : InRun d b key j s) : s.idx = 31 ↔ j = 31 := by
  rw [idx_eq_31_iff, h.idx_toNat]

/-- A STEP of a run computes the next value of the function level. -/
theorem InRun.stepValue_eq (h : InRun d b key j s) :
    stepValue s = runRounds s.decMode d b key (j + 1) := by
  rw [stepValue, h.idx_toNat, h.value, h.keyKept, h.direction, simonRound_runRounds]

/-- The 32nd STEP of a run reaches its end (R94). -/
theorem InRun.stepLast (h : InRun d b key 31 s) :
    RunDone d b key { s with sReg := stepValue s, idx := 0, busy := false, done := true } where
  wasReset := h.wasReset
  notBusy := rfl
  done := rfl
  holds := h.holds
  index := rfl
  direction := h.direction
  keyKept := h.keyKept
  value := h.stepValue_eq.trans (runRounds_all _ _ _ _)

/-- An earlier STEP of a run reaches the next of its states (R94). -/
theorem InRun.stepMore (h : InRun d b key j s) (hj : j ≠ 31) :
    InRun d b key (j + 1) { s with sReg := stepValue s, idx := s.idx + 1 } where
  early := by have := h.early; omega
  wasReset := h.wasReset
  busy := h.busy
  notDone := h.notDone
  holds := h.holds
  index := by rw [h.index, BitVec.ofNat_add]; rfl
  direction := h.direction
  keyKept := h.keyKept
  value := h.stepValue_eq

end

/-- Settles O37: the new value of `S` is the next one of the function level, because `kidx` reads the
key word that `encrypt` and `decrypt` use in that round. -/
theorem everyStepOfARunKeepsItsValue : Obligations.EveryStepOfARunKeepsItsValue := by
  intro s d b key j h
  constructor
  · intro hturn
    by_cases hj : j = 31
    · subst hj
      refine ⟨_, step_last hturn h.wasReset h.busy (h.idx_last_iff.2 rfl), by simp, ?_⟩
      rw [if_pos rfl]
      exact h.stepLast.of_kept (hostAdvance_kept _)
    · refine ⟨_, step_more hturn h.wasReset h.busy (mt h.idx_last_iff.1 hj), by simp, ?_⟩
      rw [if_neg hj]
      exact (h.stepMore hj).of_kept (hostAdvance_kept _)
  · intro hround
    exact ⟨_, step_round hround, by simp, h.of_kept (roundStep_kept _ s)⟩

/-- Settles O38: neither NOP nor an evaluation of `simon64_round` writes a register of the core. -/
theorem resultIsHeldUntilTheNextRequest : Obligations.ResultIsHeldUntilTheNextRequest := by
  intro s d b key h hquiet
  obtain ⟨t, hstep, hkept⟩ : ∃ t, step s = .next t ∧ CoreKept s t := by
    rcases hquiet with hround | ⟨hturn, hstart⟩
    · exact ⟨_, step_round hround, roundStep_kept _ s⟩
    · exact ⟨_, step_nop hturn h.wasReset h.notBusy hstart, hostAdvance_kept s⟩
  exact ⟨t, hstep, h.of_kept hkept, readBlockOut_of_kept hkept⟩

/-! ### How many STEPs a run takes -/

theorem runDrives_cons_of_step {l : Drive} {rest : List Drive} {s t : State}
    (h : step (applyDrive l s) = .next t) : runDrives (l :: rest) s = runDrives rest t := by
  simp only [runDrives, h]

/-- A driven run can be cut in two. -/
theorem runDrives_append {xs ys : List Drive} {s t : State} (h : runDrives xs s = .next t) :
    runDrives (xs ++ ys) s = runDrives ys t := by
  induction xs generalizing s with
  | nil => cases h; rfl
  | cons l rest ih =>
    cases hstep : step (applyDrive l s) with
    | next u =>
      rw [runDrives_cons_of_step hstep] at h
      rw [List.cons_append, runDrives_cons_of_step hstep, ih h]
    | fault r => simp [runDrives, hstep] at h
    | refused r => simp [runDrives, hstep] at h

/-- A line without a reset makes the next step one of the sequencer. -/
theorem sequencerTurn_applyDrive {l : Drive} (h : noResetLine l = true) (s : State) :
    SequencerTurn (applyDrive l s) := by
  cases l with
  | loop p => exact ⟨rfl, by simpa [noResetLine, applyDrive] using h⟩
  | round p => cases h

/-- A driven STEP before the last goes on with the run. -/
theorem drivenStep_more {l : Drive} {s : State} (hl : noResetLine l = true)
    (hw : s.wasReset = true) (hb : s.busy = true) (hi : s.idx ≠ 31) :
    ∃ t, step (applyDrive l s) = .next t ∧ t.wasReset = true ∧ t.busy = true ∧
      t.idx = s.idx + 1 := by
  have k := applyDrive_kept l s
  refine ⟨_, step_more (sequencerTurn_applyDrive hl s) (k.wasReset.trans hw)
    (k.registers.busy.symm.trans hb) (k.registers.idx ▸ hi), ?_, ?_, ?_⟩
  · simp [k.wasReset, hw]
  · simp [← k.registers.busy, hb]
  · simp [← k.registers.idx]

/-- A driven STEP at `IDX = 31` ends the run. -/
theorem drivenStep_last {l : Drive} {s : State} (hl : noResetLine l = true)
    (hw : s.wasReset = true) (hb : s.busy = true) (hi : s.idx = 31) :
    ∃ t, step (applyDrive l s) = .next t ∧ t.busy = false ∧ t.done = true ∧ t.idx = 0 := by
  have k := applyDrive_kept l s
  exact ⟨_, step_last (sequencerTurn_applyDrive hl s) (k.wasReset.trans hw)
    (k.registers.busy.symm.trans hb) (k.registers.idx.symm.trans hi), by simp, by simp, by simp⟩

/-- Fewer STEPs than a run still needs leave it in progress, `IDX` counting them. -/
theorem runDrives_busy {lines : List Drive} {s : State} (hw : s.wasReset = true)
    (hb : s.busy = true) (hl : ∀ l ∈ lines, noResetLine l = true)
    (hlt : s.idx.toNat + lines.length < 32) :
    ∃ t, runDrives lines s = .next t ∧ t.wasReset = true ∧ t.busy = true ∧
      t.idx.toNat = s.idx.toNat + lines.length := by
  induction lines generalizing s with
  | nil => exact ⟨s, rfl, hw, hb, rfl⟩
  | cons l rest ih =>
    rw [List.forall_mem_cons] at hl
    rw [List.length_cons] at hlt
    have hi : s.idx ≠ 31 := mt idx_eq_31_iff.1 (by omega)
    obtain ⟨u, hstep, huw, hub, huidx⟩ := drivenStep_more hl.1 hw hb hi
    have hun : u.idx.toNat = s.idx.toNat + 1 := by rw [huidx]; bv_omega
    obtain ⟨t, hrun, htw, htb, htidx⟩ := ih huw hub hl.2 (by omega)
    exact ⟨t, (runDrives_cons_of_step hstep).trans hrun, htw, htb, by
      rw [htidx, hun, List.length_cons]; omega⟩

/-- Settles O29: all STEPs but the last count `IDX` up to 31, where the last one ends the run. -/
theorem everyRunEndsInBoundedSteps : Obligations.EveryRunEndsInBoundedSteps := by
  intro s lines hw hb hl
  constructor
  · intro hlt
    obtain ⟨t, hrun, -, htb, htidx⟩ := runDrives_busy hw hb hl (by omega)
    exact ⟨t, hrun, htb, by rw [← htidx, BitVec.ofNat_toNat, BitVec.setWidth_eq]⟩
  · intro hlen
    have hidx : s.idx.toNat < 32 := s.idx.isLt
    obtain rfl | ⟨front, l, rfl⟩ := List.eq_nil_or_concat' lines
    · rw [List.length_nil] at hlen; omega
    rw [List.length_append, List.length_singleton] at hlen
    obtain ⟨u, hrun, huw, hub, huidx⟩ := runDrives_busy (lines := front) hw hb
      (fun x hx => hl x (List.mem_append_left _ hx)) (by omega)
    have hu31 : u.idx = 31 := idx_eq_31_iff.2 (by omega)
    obtain ⟨t, hstep, ht⟩ := drivenStep_last (hl l (by simp)) huw hub hu31
    exact ⟨t, by rw [runDrives_append hrun, runDrives_cons_of_step hstep]; rfl, ht⟩

end Sys2Proof.Machine
end

section
/-!
Which operation writes what (10_state.md R15 to R21, R27): case analyses along the effects.
-/

namespace Sys2Proof.Machine

theorem Effect.decMode_eq {s t : State} {i : Instr} (h : Effect s i t) : t.decMode = s.decMode := by
  cases h <;> rfl

/-- Settles O43: no effect writes the configuration, and neither does the host's next line. -/
theorem configurationIsFixedForEver : Obligations.ConfigurationIsFixedForEver := by
  intro s t hstep
  obtain ⟨i, u, -, heff, rfl⟩ := selected_effect_of_step hstep
  rw [hostAdvance_decMode, heff.decMode_eq]

/-- Settles O15: an evaluation of `simon64_round` keeps the core, and no transition of the loop writes
the pins of `simon64_round`. -/
theorem theTwoBlocksLeaveEachOtherAlone : Obligations.TheTwoBlocksLeaveEachOtherAlone := by
  intro i s t hexec
  cases exec_eq_next_iff.1 hexec with
  | roundEnc => exact ⟨fun _ => ⟨evaluateRound_kept _ s, rfl⟩, nofun⟩
  | roundDec => exact ⟨fun _ => ⟨evaluateRound_kept _ s, rfl⟩, nofun⟩
  | _ => exact ⟨nofun, fun _ => ⟨rfl, rfl⟩⟩

/-- Settles O39: only the effects of ENC, DEC, RESET and the last STEP write a status bit. -/
theorem statusBitsChangeOnlyAsNamed : Obligations.StatusBitsChangeOnlyAsNamed := by
  intro i s t hexec
  cases exec_eq_next_iff.1 hexec with
  | enc => exact ⟨fun _ => .inl ⟨rfl, .inl rfl⟩, fun _ => .inr ⟨rfl, .inl rfl⟩⟩
  | dec => exact ⟨fun _ => .inl ⟨rfl, .inr rfl⟩, fun _ => .inr ⟨rfl, .inr (.inl rfl)⟩⟩
  | stepLast start dir last =>
    exact ⟨fun _ => .inr ⟨rfl, .inl ⟨start, dir, rfl, last⟩⟩,
      fun _ => .inl ⟨rfl, start, dir, rfl, last⟩⟩
  | reset busy start dir =>
    exact ⟨fun _ => .inr ⟨rfl, .inr ⟨busy, start, dir, rfl⟩⟩,
      fun _ => .inr ⟨rfl, .inr (.inr ⟨busy, start, dir, rfl⟩)⟩⟩
  | _ => exact ⟨fun hne => absurd rfl hne, fun hne => absurd rfl hne⟩

/-- Settles O40: an evaluation of `simon64_round` and NOP write none of the four registers, and a STEP
writes neither `DIRR` nor `KR`. -/
theorem eachRegisterHasOnlyItsNamedWriters : Obligations.EachRegisterHasOnlyItsNamedWriters := by
  intro i s t hexec
  cases exec_eq_next_iff.1 hexec with
  | enc | dec | reset | stepLast | stepMore => simp
  | _ => exact ⟨fun hne => absurd rfl hne, fun hne => absurd rfl hne,
      fun hne => absurd rfl hne, fun hne => absurd rfl hne⟩

end Sys2Proof.Machine
end

section
/-!
The key word space and the order of words in memory (20_memory.md R33 to R37).
-/

namespace Sys2Proof.Machine

/-- With `rst = 0` on the pins, or a line for `simon64_round`, a step of a run writes neither `KR` nor
`DIRR`: it is an evaluation of `simon64_round` or a STEP (R35, R49). -/
theorem busyStep_keeps_kr_dirr {s : State} (hw : s.wasReset = true) (hb : s.busy = true)
    (hr : s.target = .loop → s.loopPins.rst = false) :
    ∃ t, step s = .next t ∧ t.kr = s.kr ∧ t.dirr = s.dirr := by
  cases ht : s.target with
  | round => exact ⟨_, step_round ht, by simp, by simp⟩
  | loop =>
    by_cases hi : s.idx = 31
    · exact ⟨_, step_last ⟨ht, hr ht⟩ hw hb hi, by simp, by simp⟩
    · exact ⟨_, step_more ⟨ht, hr ht⟩ hw hb hi, by simp, by simp⟩

/-- Settles O41: the line on the pins writes no register, and the step of a run that it drives writes
neither `KR` nor `DIRR`. -/
theorem keyAndDirectionAreFixedDuringARun : Obligations.KeyAndDirectionAreFixedDuringARun := by
  intro s l hw hb hl
  have k := applyDrive_kept l s
  have hr : (applyDrive l s).target = .loop → (applyDrive l s).loopPins.rst = false := by
    cases l with
    | loop p => exact fun _ => hl p rfl
    | round p => nofun
  obtain ⟨t, hstep, hkr, hdirr⟩ := busyStep_keeps_kr_dirr (k.wasReset.trans hw)
    (k.registers.busy.symm.trans hb) hr
  exact ⟨t, hstep, hkr.trans k.registers.kr.symm, hdirr.trans k.registers.dirr.symm⟩

/-! ### The halves of a Block -/

/-- `join` as the shift and OR of R60. -/
theorem join_eq_shiftLeft_or (h l : Word) :
    join h l = (h.setWidth 32 <<< 16) ||| l.setWidth 32 := by
  refine BitVec.eq_of_getLsbD_eq fun i hi => ?_
  rw [join_getLsbD]
  by_cases hlow : i < 16
  · simp [hlow, hi]
  · have habove : l.getLsbD i = false := BitVec.getLsbD_of_ge l i (by omega)
    simp [hlow, hi, habove]

@[simp] theorem hiWord_join (h l : Word) : hiWord (join h l) = h :=
  BitVec.extractLsb'_append_eq_left

@[simp] theorem loWord_join (h l : Word) : loWord (join h l) = l :=
  BitVec.extractLsb'_append_eq_right

/-- Settles O7: the first word is the low argument of `join`, and each half of a joined Block is the
word that went in. -/
theorem firstWordOfABlockIsTheLowHalf : Obligations.FirstWordOfABlockIsTheLowHalf := by
  refine ⟨fun w0 w1 => join_eq_shiftLeft_or w1 w0, fun w0 w1 => ?_, by decide, by decide⟩
  rw [wordsOfBlock, blockOfWords, loWord_join, hiWord_join]

/-! ### The key word space after a capture, and its addresses in a run -/

/-- After a capture the key word space reads as the key pins, at every address (R33, R85). -/
theorem memRead_captureOperands (d : Direction) (s : State) (a : Nat) :
    memRead (captureOperands d s).kr a = keyAt s.loopPins.keyIn a := by
  rw [captureOperands_kr, memRead_eq]

/-- Settles O19: ENC and DEC are the same capture. -/
theorem capturedKeyReadsBack : Obligations.CapturedKeyReadsBack := fun s a =>
  ⟨⟨_, exec_of_effect .enc, memRead_captureOperands .encrypt s a⟩,
    ⟨_, exec_of_effect .dec, memRead_captureOperands .decrypt s a⟩⟩

@[simp] theorem kidx_encrypt (m : DecMode) (i : Nat) : kidx m i .encrypt = i % 8 := rfl
@[simp] theorem kidx_literal (i : Nat) (d : Direction) : kidx .literal i d = i % 8 := by
  cases d <;> rfl
@[simp] theorem kidx_intended_decrypt (i : Nat) : kidx .intended i .decrypt = (31 - i) % 8 := rfl

/-- Settles O22: the index is `i mod 8`, or `(31 - i) mod 8` in an INTENDED Decrypt, listed over the
32 rounds. -/
theorem keyWordsAreVisitedFourTimesOver : Obligations.KeyWordsAreVisitedFourTimesOver := by
  refine ⟨fun m => ?_, ?_, ?_⟩
  · simp only [kidx_encrypt]; decide
  · simp only [kidx_literal]; decide
  · simp only [kidx_intended_decrypt]; decide

end Sys2Proof.Machine
end

section
/-!
The encodings of the two formats (30_encoding.md R45 to R50, R54): every word of a format lies in
one row, and the row's instruction encodes back to the word.
-/

namespace Sys2Proof.Machine

/-- Every control word is made of its four bits (R48). -/
theorem eq_controlBits (w : BitVec 4) :
    w = controlBits (w.getLsbD 3) (w.getLsbD 2) (w.getLsbD 1) (dirOfBit (w.getLsbD 0)) := by
  decide +revert

/-- The rows of Format C: a control word by its bits, and the instruction of its row (R49). -/
inductive ControlRow : BitVec 4 → Instr → Prop
  | reset (busy start : Bool) (dir : Direction) :
      ControlRow (controlBits true busy start dir) (.reset busy start dir)
  | step (start : Bool) (dir : Direction) :
      ControlRow (controlBits false true start dir) (.step start dir)
  | enc : ControlRow (controlBits false false true .encrypt) .enc
  | dec : ControlRow (controlBits false false true .decrypt) .dec
  | nop (dir : Direction) : ControlRow (controlBits false false false dir) (.nop dir)

/-- Every control word decodes to the instruction of its row (R49, R50). -/
theorem controlRow_decodeControl (w : BitVec 4) : ControlRow w (decodeControl w) := by
  rw [eq_controlBits w, decodeControl_controlBits]
  generalize w.getLsbD 3 = rst, w.getLsbD 2 = busy, w.getLsbD 1 = start,
    dirOfBit (w.getLsbD 0) = dir
  cases rst with
  | true => exact .reset busy start dir
  | false =>
    cases busy with
    | true => exact .step start dir
    | false =>
      cases start with
      | false => exact .nop dir
      | true =>
        cases dir with
        | encrypt => exact .enc
        | decrypt => exact .dec

/-- A row's instruction is of Format C, and its word is the control word (R49). -/
theorem ControlRow.encode_eq {w : BitVec 4} {i : Instr} (h : ControlRow w i) :
    formatOf i = .c ∧ encode i = w.toNat := by
  cases h <;> exact ⟨rfl, rfl⟩

/-- A control word lies in one row only (R50). -/
theorem ControlRow.decodeControl_eq {w : BitVec 4} {i : Instr} (h : ControlRow w i) :
    decodeControl w = i := by
  cases h <;> exact decodeControl_controlBits _ _ _ _

/-- The word of Format R is the direction bit of the instruction it decodes to (R46, R47). -/
theorem encode_decodeRound (d : BitVec 1) :
    formatOf (decodeRound d) = .r ∧ encode (decodeRound d) = d.toNat := by
  decide +revert

/-! ### The decoder on numbers -/

theorem decode_c_toNat (w : BitVec 4) : decode .c w.toNat = .ok (decodeControl w) := by
  simp [decode, w.isLt]

theorem decode_r_toNat (d : BitVec 1) : decode .r d.toNat = .ok (decodeRound d) := by
  simp [decode, d.isLt]

/-- A number that Format C decodes is a control word (R48). -/
theorem exists_of_decode_c {w : Nat} {i : Instr} (h : decode .c w = .ok i) :
    ∃ v : BitVec 4, v.toNat = w ∧ decodeControl v = i := by
  by_cases hw : w < 16
  · simp only [decode, if_pos hw, Except.ok.injEq] at h
    exact ⟨BitVec.ofNat 4 w, Nat.mod_eq_of_lt hw, h⟩
  · simp [decode, hw] at h

/-- A number that Format R decodes is a direction bit (R46). -/
theorem exists_of_decode_r {w : Nat} {i : Instr} (h : decode .r w = .ok i) :
    ∃ v : BitVec 1, v.toNat = w ∧ decodeRound v = i := by
  by_cases hw : w < 2
  · simp only [decode, if_pos hw, Except.ok.injEq] at h
    exact ⟨BitVec.ofNat 1 w, Nat.mod_eq_of_lt hw, h⟩
  · simp [decode, hw] at h

/-- Decoding the word of a row's instruction gives the instruction. -/
theorem ControlRow.decode_encode {w : BitVec 4} {i : Instr} (h : ControlRow w i) :
    decode (formatOf i) (encode i) = .ok i := by
  obtain ⟨hformat, hword⟩ := h.encode_eq
  rw [hformat, hword, decode_c_toNat, h.decodeControl_eq]

/-- No instruction is lost in its word, unexamined bits included (R54). -/
theorem decode_encode (i : Instr) : decode (formatOf i) (encode i) = .ok i := by
  cases i with
  | roundEnc => exact decode_r_toNat 0
  | roundDec => exact decode_r_toNat 1
  | reset busy start dir => exact (ControlRow.reset busy start dir).decode_encode
  | step start dir => exact (ControlRow.step start dir).decode_encode
  | enc => exact ControlRow.enc.decode_encode
  | dec => exact ControlRow.dec.decode_encode
  | nop dir => exact (ControlRow.nop dir).decode_encode

/-- Settles O48: a number that a format decodes is a word of the format, and the instruction of the
word's row encodes to it. -/
theorem decodeAndEncodeAgree : Obligations.DecodeAndEncodeAgree := by
  refine ⟨fun i _ => decode_encode i, fun f w i h => ?_⟩
  cases f with
  | r =>
    obtain ⟨v, rfl, rfl⟩ := exists_of_decode_r h
    exact encode_decodeRound v
  | c =>
    obtain ⟨v, rfl, rfl⟩ := exists_of_decode_c h
    exact (controlRow_decodeControl v).encode_eq

/-- Settles O47: each word is the word of its operation. -/
theorem wordsOfTheTableDecode : Obligations.WordsOfTheTableDecode :=
  ⟨decode_encode .roundEnc, decode_encode .roundDec,
    decode_encode (.reset false false .encrypt), decode_encode (.reset true true .decrypt),
    decode_encode (.step true .decrypt), decode_encode .enc, decode_encode .dec,
    decode_encode (.nop .decrypt)⟩

/-! ### The rows by match and mask -/

section
variable (rst busy start : Bool) (dir : Direction)

theorem controlBits_matches_reset :
    controlBits rst busy start dir &&& 0b1000#4 = 0b1000#4 ↔ rst = true := by
  cases dir <;> decide +revert

theorem controlBits_matches_step :
    controlBits rst busy start dir &&& 0b1100#4 = 0b0100#4 ↔ rst = false ∧ busy = true := by
  cases dir <;> decide +revert

theorem controlBits_matches_enc :
    controlBits rst busy start dir &&& 0b1111#4 = 0b0010#4 ↔
      rst = false ∧ busy = false ∧ start = true ∧ dir = .encrypt := by
  cases dir <;> decide +revert

theorem controlBits_matches_dec :
    controlBits rst busy start dir &&& 0b1111#4 = 0b0011#4 ↔
      rst = false ∧ busy = false ∧ start = true ∧ dir = .decrypt := by
  cases dir <;> decide +revert

theorem controlBits_matches_nop :
    controlBits rst busy start dir &&& 0b1110#4 = 0b0000#4 ↔
      rst = false ∧ busy = false ∧ start = false := by
  cases dir <;> decide +revert

end

/-- Settles O46: in each row its own match holds and the other four fail, by the bits it fixes. -/
theorem controlWordSelectsOneRow : Obligations.ControlWordSelectsOneRow := by
  refine ⟨fun w => ?_, by decide, by decide, by decide, by decide, by decide⟩
  have hrow := controlRow_decodeControl w
  generalize decodeControl w = i at hrow ⊢
  cases hrow <;>
    simp [controlBits_matches_reset, controlBits_matches_step, controlBits_matches_enc,
      controlBits_matches_dec, controlBits_matches_nop]

end Sys2Proof.Machine
end

section
/-!
The flat key bus (30_encoding.md R52), slice by slice.
-/

namespace Sys2Proof.Machine

/-- A slice of a bus made one word longer at its low end is that word, or a slice of the old bus. -/
theorem slice_append {n : Nat} (bus : BitVec n) (lo : Word) (i : Nat) :
    (bus ++ lo).extractLsb' (16 * i) 16 =
      if i = 0 then lo else bus.extractLsb' (16 * (i - 1)) 16 := by
  by_cases h : i = 0
  · subst h; exact BitVec.extractLsb'_append_eq_right
  · rw [if_neg h, BitVec.extractLsb'_append_eq_of_le (by omega), Nat.mul_sub_one]

/-- Word `i` of the key lies at bits `16*i+15 : 16*i` of the bus (R52). -/
theorem keyFlat_slice (key : KeyArray) (i : Nat) (h : i < 8) :
    (keyFlat key).extractLsb' (16 * i) 16 = key[i] := by
  rw [← keyAt_of_lt key i h, keyFlat]
  iterate 7 rw [slice_append]
  interval_cases i <;> simp

/-- Two buses are equal when their eight slices are. -/
theorem bus_ext {x y : BitVec 128}
    (h : ∀ i, i < 8 → x.extractLsb' (16 * i) 16 = y.extractLsb' (16 * i) 16) : x = y := by
  refine BitVec.eq_of_getLsbD_eq fun j hj => ?_
  have hbit := congrArg (fun w => w.getLsbD (j % 16)) (h (j / 16) (by omega))
  simpa [BitVec.getLsbD_extractLsb', Nat.mod_lt, Nat.div_add_mod] using hbit

theorem keyOfFlat_getElem (bus : BitVec 128) (i : Nat) (h : i < 8) :
    (keyOfFlat bus)[i] = bus.extractLsb' (16 * i) 16 := by
  simp [keyOfFlat]

/-- Settles O8: the slices of a packed key are its words, and a bus is determined by its slices. -/
theorem keyBusCarriesEveryWord : Obligations.KeyBusCarriesEveryWord := by
  refine ⟨keyFlat_slice, fun key => ?_, fun bus => ?_, by decide⟩
  · ext i h : 1
    rw [keyOfFlat_getElem _ i h, keyFlat_slice]
  · refine bus_ext fun i h => ?_
    rw [keyFlat_slice _ i h, keyOfFlat_getElem]

end Sys2Proof.Machine
end

section
/-!
Traces (30_encoding.md R55): the operation that a step decodes, the operation that a line takes, and
a loaded trace against the same lines driven one by one.
-/

namespace Sys2Proof.Machine

/-- With a RESET taken or `rst = 1`, a sequencer step fetches what its control word decodes to
(R49, R116). -/
theorem fetch_loop {s : State} (h : s.target = .loop)
    (hlive : s.wasReset = true ∨ s.loopPins.rst = true) :
    fetch s = .ok (decodeControl (controlWord s)) := by
  simp [fetch, h, hlive]

/-- A step of `simon64_round` fetches what the bit on its pin `dir` decodes to (R47). -/
theorem fetch_roundWord {s : State} (h : s.target = .round) :
    fetch s = .ok (decodeRound (roundWord s)) := by
  simp [fetch, h]

/-- Settles O49: what the decoder answers on the word at the pins is what the step fetches. -/
theorem stepRunsTheDecodedInstruction : Obligations.StepRunsTheDecodedInstruction := by
  refine ⟨fun s i ht hlive hdec => ?_, fun s i ht hdec => ?_, afterTransition_next,
    fun t h => hostAdvance_nil h, fun t p rest h => hostAdvance_cons h,
    fun t p rest h => hostAdvance_cons h⟩
  · have hi : decodeControl (controlWord s) = i :=
      Except.ok.inj ((decode_c_toNat _).symm.trans hdec)
    exact step_of_fetch (hi ▸ fetch_loop ht hlive)
  · have hi : decodeRound (roundWord s) = i :=
      Except.ok.inj ((decode_r_toNat _).symm.trans hdec)
    exact step_of_fetch (hi ▸ fetch_roundWord ht)

/-! ### The lines of a trace -/

/-- A written key has pin levels exactly when it has 8 words (R52). -/
theorem keyOfList_isSome (key : List Word) : (keyOfList key).isSome = keyListWf key := by
  by_cases h : key.length = 8 <;> simp [keyOfList, keyListWf, h]

theorem lineDrive_isSome (line : TraceLine) : (lineDrive line).isSome = line.wf := by
  cases line with
  | roundEnc | roundDec => rfl
  | _ => exact (Option.isSome_map ..).trans (keyOfList_isSome _)

/-- With its levels on the pins, a line that fits the state selects its own operation (R49, R55). -/
theorem selected_applyDrive {line : TraceLine} {l : Drive} {s : State}
    (hl : lineDrive line = some l) (hw : s.wasReset = true) (hfit : lineFits s.busy line = true) :
    Selected (applyDrive l s) (lineInstr s.busy line) := by
  cases line with
  | roundEnc state rk =>
    obtain rfl := Option.some.inj hl
    exact .roundEnc rfl rfl
  | roundDec state rk =>
    obtain rfl := Option.some.inj hl
    exact .roundDec rfl rfl
  | reset start dir block key =>
    obtain ⟨k, -, rfl⟩ := Option.map_eq_some_iff.1 hl
    exact .reset rfl rfl
  | step start dir block key =>
    obtain ⟨k, -, rfl⟩ := Option.map_eq_some_iff.1 hl
    exact .step ⟨rfl, rfl⟩ hw hfit
  | enc block key =>
    obtain ⟨k, -, rfl⟩ := Option.map_eq_some_iff.1 hl
    exact .enc ⟨rfl, rfl⟩ hw (Bool.eq_false_of_not_eq_true' hfit) rfl rfl
  | dec block key =>
    obtain ⟨k, -, rfl⟩ := Option.map_eq_some_iff.1 hl
    exact .dec ⟨rfl, rfl⟩ hw (Bool.eq_false_of_not_eq_true' hfit) rfl rfl
  | nop dir block key =>
    obtain ⟨k, -, rfl⟩ := Option.map_eq_some_iff.1 hl
    exact .nop ⟨rfl, rfl⟩ hw (Bool.eq_false_of_not_eq_true' hfit) rfl

/-- Settles O50: each line puts on the pins the levels that select its operation. -/
theorem traceLineTakesItsOwnOperation : Obligations.TraceLineTakesItsOwnOperation :=
  ⟨fun line => (lineDrive_isSome line).symm,
    fun _ _ _ hl hw hfit => fetch_of_selected (selected_applyDrive hl hw hfit)⟩

/-! ### A loaded trace -/

/-- A state without what the host sets: the pins, the output that follows them, and the trace. -/
def coreOf (s : State) : State :=
  { s with
    loopPins := lowLoopPins
    roundPins := lowRoundPins
    stateOut := 0
    target := .loop
    trace := [] }

@[simp] theorem coreOf_applyDrive (l : Drive) (s : State) : coreOf (applyDrive l s) = coreOf s := by
  cases l <;> rfl

@[simp] theorem coreOf_hostAdvance (s : State) : coreOf (hostAdvance s) = coreOf s := by
  cases h : s.trace with
  | nil => rw [hostAdvance_nil h]; rfl
  | cons l rest => rw [hostAdvance_cons h, coreOf_applyDrive]; rfl

theorem SameRegisters.of_coreOf_eq {s t : State} (h : coreOf s = coreOf t) : SameRegisters s t where
  sReg := (congrArg State.sReg h :)
  idx := (congrArg State.idx h :)
  busy := (congrArg State.busy h :)
  done := (congrArg State.done h :)
  dirr := (congrArg State.dirr h :)
  kr := (congrArg State.kr h :)

theorem Effect.trace_eq {s t : State} {i : Instr} (h : Effect s i t) : t.trace = s.trace := by
  cases h <;> rfl

/-- The first RESET stays taken (R28). -/
theorem Effect.wasReset_eq_true {s t : State} {i : Instr} (h : Effect s i t)
    (hw : s.wasReset = true) : t.wasReset = true := by
  cases h with
  | reset => rfl
  | _ => exact hw

/-- A line for the sequencer selects its operation by the core alone. -/
theorem fetch_present_coreOf (p : LoopPins) (s : State) :
    fetch (present p (coreOf s)) = fetch (present p s) := rfl

/-- Under a line for the sequencer, the core alone decides what an operation makes of it. -/
theorem Effect.on_coreOf {p : LoopPins} {s u : State} {i : Instr} (h : Effect (present p s) i u) :
    ∃ v, Effect (present p (coreOf s)) i v ∧ coreOf v = coreOf u := by
  cases h with
  | roundEnc => exact ⟨_, .roundEnc, rfl⟩
  | roundDec => exact ⟨_, .roundDec, rfl⟩
  | reset busy start dir => exact ⟨_, .reset busy start dir, rfl⟩
  | stepLast start dir last => exact ⟨_, .stepLast start dir last, rfl⟩
  | stepMore start dir more => exact ⟨_, .stepMore start dir more, rfl⟩
  | enc => exact ⟨_, .enc, rfl⟩
  | dec => exact ⟨_, .dec, rfl⟩
  | nop dir => exact ⟨_, .nop dir, rfl⟩

theorem Effect.unique {s t u : State} {i : Instr} (ht : Effect s i t) (hu : Effect s i u) : t = u :=
  Host.Outcome.next.inj ((exec_of_effect ht).symm.trans (exec_of_effect hu))

/-- One line on the pins of two machines of the same core: both answer, with the same core again. -/
theorem drivenSteps_agree {s t : State} (l : Drive) (h : coreOf s = coreOf t)
    (hw : s.wasReset = true) :
    ∃ u v, step (applyDrive l s) = .next (hostAdvance u) ∧
      step (applyDrive l t) = .next (hostAdvance v) ∧
      coreOf u = coreOf v ∧ u.trace = s.trace ∧ u.wasReset = true := by
  cases l with
  | round p => exact ⟨_, _, step_round rfl, step_round rfl, h, rfl, hw⟩
  | loop p =>
    obtain ⟨i, hsel⟩ := exists_selected (s := present p s) (.inr (.inr hw))
    have hsel' : Selected (present p t) i := by
      rw [← fetch_eq_ok_iff, ← fetch_present_coreOf, ← h, fetch_present_coreOf]
      exact fetch_of_selected hsel
    obtain ⟨u, hu⟩ := exists_effect i (present p s)
    obtain ⟨v, hv⟩ := exists_effect i (present p t)
    obtain ⟨u', hu', hcoreU⟩ := hu.on_coreOf
    obtain ⟨v', hv', hcoreV⟩ := hv.on_coreOf
    rw [← h] at hv'
    have hcore : coreOf u = coreOf v := by rw [← hcoreU, ← hcoreV, hu'.unique hv']
    exact ⟨u, v, step_of_selected hsel hu, step_of_selected hsel' hv, hcore, hu.trace_eq,
      hu.wasReset_eq_true hw⟩

theorem coreRun_succ_of_step {n : Nat} {s t : State} (h : step s = .next t) :
    Host.Core.run Sys2Proof.core (n + 1) s = Host.Core.run Sys2Proof.core n t := by
  have hcore : Sys2Proof.core.step s = .next t := h
  simp only [Host.Core.run, hcore]

/-- The host's next line is the first of the trace still loaded. -/
theorem hostAdvance_eq_loadTrace {s : State} {lines : List Drive} (h : s.trace = lines) :
    hostAdvance s = loadTrace lines s := by
  subst h; rfl

/-- From two states of the same core, the closed machine with the lines loaded and the machine
driven line by line both answer, and end with the same core. -/
theorem loadedRun_agrees (lines : List Drive) {s t : State} (h : coreOf s = coreOf t)
    (hw : s.wasReset = true) :
    ∃ u v, Host.Core.run Sys2Proof.core lines.length (loadTrace lines s) = .next u ∧
      runDrives lines t = .next v ∧ coreOf u = coreOf v := by
  induction lines generalizing s t with
  | nil => exact ⟨_, t, rfl, rfl, h⟩
  | cons l rest ih =>
    obtain ⟨u, v, hclosed, hdriven, hcore, htrace, huw⟩ :=
      drivenSteps_agree (s := { s with trace := rest }) l h hw
    rw [hostAdvance_eq_loadTrace htrace] at hclosed
    obtain ⟨u', v', hu', hv', hcore'⟩ := ih (hcore.trans (coreOf_hostAdvance v).symm) huw
    exact ⟨u', v', (coreRun_succ_of_step hclosed).trans hu',
      (runDrives_cons_of_step hdriven).trans hv', hcore'⟩

/-- Settles O51: both runs take each line from states that differ only in what the host sets. -/
theorem loadedTraceRunsAsDriven : Obligations.LoadedTraceRunsAsDriven := by
  intro s lines hw _
  obtain ⟨t, u, hclosed, hdriven, hcore⟩ := loadedRun_agrees lines (s := s) rfl hw
  exact ⟨t, u, hclosed, hdriven, .of_coreOf_eq hcore, (congrArg State.holdsOperands hcore :)⟩

end Sys2Proof.Machine
end

section
/-!
The word primitives (40_word_primitives.md R59 to R67). A rotation is known by its bits: bit `j` of
`rotl16 x n` is bit `(j - n) mod 16` of `x`, and two amounts with one remainder are one rotation.
-/

namespace Sys2Proof.Machine

/-! ### Rotation (R63 to R66) -/

theorem rotl16_congr {n m : Int} (h : n % 16 = m % 16) (x : Word) : rotl16 x n = rotl16 x m := by
  simp only [rotl16, rotAmount, h]

/-- The bits of a rotated word, with the source's index an integer remainder (R63). -/
theorem rotl16_bit (x : Word) (n : Int) (j : Nat) (hj : j < 16) :
    (rotl16 x n).getLsbD j = x.getLsbD (((j : Int) - n) % 16).toNat := by
  rw [rotl16_getLsbD x n j hj]
  congr 1
  unfold rotAmount
  omega

/-- An amount that is a multiple of 16 leaves every bit in place (R66). -/
theorem rotl16_of_emod_eq_zero {n : Int} (h : n % 16 = 0) (x : Word) : rotl16 x n = x := by
  refine word_ext fun j hj => ?_
  rw [rotl16_bit x n j hj]
  congr 1
  omega

/-- Rotations compose by adding their amounts (R66). -/
theorem rotl16_rotl16 (x : Word) (a b : Int) : rotl16 (rotl16 x a) b = rotl16 x (a + b) := by
  refine word_ext fun j hj => ?_
  rw [rotl16_bit _ _ j hj, rotl16_bit _ _ _ (by omega), rotl16_bit _ _ j hj]
  congr 1
  omega

theorem rotl16_xor (x y : Word) (a : Int) : rotl16 (x ^^^ y) a = rotl16 x a ^^^ rotl16 y a := by
  refine word_ext fun j hj => ?_
  simp only [BitVec.getLsbD_xor, rotl16_bit _ _ j hj]

theorem rotl16_and (x y : Word) (a : Int) : rotl16 (x &&& y) a = rotl16 x a &&& rotl16 y a := by
  refine word_ext fun j hj => ?_
  simp only [BitVec.getLsbD_and, rotl16_bit _ _ j hj]

theorem rotl16_zeroWord (a : Int) : rotl16 0 a = 0 := by
  simp [rotl16]

theorem rotl16_allOnes (a : Int) : rotl16 (BitVec.allOnes 16) a = BitVec.allOnes 16 := by
  refine word_ext fun j hj => ?_
  have hsource : (((j : Int) - a) % 16).toNat < 16 := by omega
  rw [rotl16_bit _ _ j hj, BitVec.getLsbD_allOnes, BitVec.getLsbD_allOnes]
  simp only [hj, hsource]

/-- Rotation by a reduced amount as the two shifts of a value wide enough (R63). -/
theorem rotl16_eq_shifts {n : Int} {m : Nat} (h : n % 16 = m) (x : Word) :
    rotl16 x n =
      ((x.setWidth 32 <<< m) ||| (x.setWidth 32 >>> (16 - m))).extractLsb' 0 16 := by
  have hm : rotAmount n = m := by simp [rotAmount, h]
  refine word_ext fun j hj => ?_
  have hwide : j < 32 := by omega
  have hleft : j - m < 32 := by omega
  have hright : 16 - m + j < 32 := by omega
  simp only [rotl16, hm, BitVec.getLsbD_extractLsb', BitVec.getLsbD_or, BitVec.getLsbD_shiftLeft,
    BitVec.getLsbD_ushiftRight, BitVec.getLsbD_setWidth, Nat.zero_add, hj, hwide, hleft, hright,
    decide_true, Bool.true_and]

/-- The source indices of a rotated word's bits are 0 to 15, rotated as a list. -/
theorem range_rotate (k : Nat) :
    (List.range 16).rotate k = (List.range 16).map fun j => (j + k) % 16 := by
  refine List.ext_getElem (by simp) fun j _ _ => ?_
  simp [List.getElem_rotate]

/-- A rotation moves the 1 bits and keeps their number (R63). -/
theorem rotl16_countP (x : Word) (n : Int) :
    (List.range 16).countP (fun j => (rotl16 x n).getLsbD j) =
      (List.range 16).countP (fun j => x.getLsbD j) := by
  calc (List.range 16).countP (fun j => (rotl16 x n).getLsbD j)
      = (List.range 16).countP (fun j => x.getLsbD ((j + (16 - rotAmount n)) % 16)) :=
        List.countP_congr fun j hj => by rw [rotl16_getLsbD x n j (List.mem_range.mp hj)]
    _ = ((List.range 16).rotate (16 - rotAmount n)).countP (fun j => x.getLsbD j) := by
        rw [range_rotate, List.countP_map]; rfl
    _ = (List.range 16).countP (fun j => x.getLsbD j) :=
        (List.rotate_perm _ _).countP_eq _

/-- Settles O1: each clause is a fact about the bits of a rotated word. -/
theorem rotationMovesEachBit : Obligations.RotationMovesEachBit := by
  refine fun x n => ⟨fun i hi => ?_, (rotl16_of_emod_eq_zero · x),
    fun m _ _ h => rotl16_eq_shifts h x, rotl16_countP x n⟩
  rw [rotl16_bit _ _ _ (Nat.mod_lt _ (by decide))]
  congr 1
  omega

/-- Settles O3: the two amounts add to 16, which is no rotation. -/
theorem rotationByComplementUndoes : Obligations.RotationByComplementUndoes := by
  refine fun x => ⟨rotl16_of_emod_eq_zero rfl x, fun n _ _ => ?_⟩
  rw [rotl16_rotl16, rotl16_of_emod_eq_zero (by omega)]

/-- Settles O4: the laws are those of composition, of the remainder and of single bits. -/
theorem rotationAlgebra : Obligations.RotationAlgebra := by
  refine ⟨fun x y a b => ⟨rotl16_rotl16 x a b, rotl16_congr (by omega) x, rotl16_xor x y a,
    rotl16_and x y a, rotl16_zeroWord a, rotl16_allOnes a, ?_, (rotl16_of_emod_eq_zero · x)⟩,
    by decide⟩
  rw [rotl16_rotl16, rotl16_of_emod_eq_zero (by decide)]

/-- The two shifts of a left rotation by 13 are those of a right rotation by 3 (R64). -/
theorem rotl16_neg_three (x : Word) : rotl16 x (-3) = x.rotateRight 3 :=
  BitVec.or_comm (x <<< 13) (x >>> 3)

/-- Rotation by half the width exchanges the two bytes (R64). -/
theorem rotl16_neg_eight (x : Word) :
    rotl16 x (-8) = x.extractLsb' 0 8 ++ x.extractLsb' 8 8 := by
  refine word_ext fun j hj => ?_
  rw [rotl16_getLsbD x _ j hj, BitVec.getLsbD_append]
  have hsource : (j + (16 - rotAmount (-8))) % 16 = if j < 8 then 8 + j else j - 8 := by
    have : rotAmount (-8) = 8 := rfl
    split <;> omega
  by_cases hlow : j < 8
  · simp [hsource, hlow]
  · simp [hsource, hlow, show j - 8 < 8 by omega]

/-- Settles O2: each negative amount has the remainder of its non-negative one. -/
theorem negativeAmountsAreNonNegativeRemainders :
    Obligations.NegativeAmountsAreNonNegativeRemainders :=
  ⟨rfl, rfl, fun x => ⟨rotl16_congr rfl x, rotl16_neg_three x, rotl16_congr rfl x,
    rotl16_neg_eight x⟩⟩

/-! ### `split` and `join` (R59, R60) -/

@[simp] theorem split_join (h l : Word) : split (join h l) = (h, l) := by
  rw [split, hiWord_join, loWord_join]

@[simp] theorem join_hiWord_loWord (b : Block) : join (hiWord b) (loWord b) = b := by
  refine BitVec.eq_of_getLsbD_eq fun i hi => ?_
  rw [join_getLsbD]
  split
  · next hlow => exact loWord_getLsbD b i hlow
  · rw [hiWord_getLsbD b _ (by omega)]
    congr 1
    omega

/-- Settles O5: each half of a joined Block is the word that went in, and the halves make up the
Block. -/
theorem splitAndJoinUndoEachOther : Obligations.SplitAndJoinUndoEachOther :=
  ⟨fun _ => rfl, join_eq_shiftLeft_or, split_join, join_hiWord_loWord, by decide, by decide⟩

/-! ### The function `f` (R67) -/

theorem fWord_eq (lo : Word) : fWord lo = (rotl16 lo 1 &&& rotl16 lo 8) ^^^ rotl16 lo 2 := by
  rw [fWord, params_rotF1, params_rotF2, params_rotF3]

/-- A word that every rotation fixes is mapped to 0. -/
theorem fWord_of_fixed {w : Word} (h : ∀ a, rotl16 w a = w) : fWord w = 0#16 := by
  rw [fWord_eq, h, h, h, BitVec.and_self, BitVec.xor_self]

/-- Settles O6: the two corner cases are the words that every rotation fixes. -/
theorem standardFunctionValues : Obligations.StandardFunctionValues :=
  ⟨fWord_eq, fWord_of_fixed rotl16_zeroWord, fWord_of_fixed rotl16_allOnes, by decide⟩

end Sys2Proof.Machine
end

section
/-!
The round function of `simon64_round` (41_simon64_round.md R70 to R80). The forward round is known
by its two words, `newHi` and `newLo`; every law of the Block is a law of these words, and these
follow from the laws of rotation and XOR.
-/

namespace Sys2Proof.Machine

/-! ### The words of a round (R72, R73, R77) -/

theorem newHi_eq (hi lo k : Word) :
    newHi hi lo k = hi ^^^ k ^^^ rotl16 lo (-3) ^^^ rotl16 lo (-8) := rfl

theorem newLo_eq (hi lo nh : Word) :
    newLo hi lo nh = lo ^^^ nh ^^^ rotl16 nh (-3) ^^^ rotl16 hi (-8) := rfl

theorem fwd_eq (b : Block) (k : Word) :
    fwd b k = join (newHi (hiWord b) (loWord b) k)
      (newLo (hiWord b) (loWord b) (newHi (hiWord b) (loWord b) k)) := rfl

/-- The low word before the forward round that gave `nh : nl`, as R77 finds it. -/
def preLo (nh nl k : Word) : Word :=
  rotl16 (nl ^^^ nh ^^^ rotl16 nh (-3) ^^^ rotl16 (nh ^^^ k) (-8)) (-5)

/-- The inverse round finds the low word first; then the high word is XORed with what the forward
round XORed it with. -/
theorem invRound_eq (b : Block) (k : Word) :
    invRound b k = join (newHi (hiWord b) (preLo (hiWord b) (loWord b) k) k)
      (preLo (hiWord b) (loWord b) k) := rfl

/-! ### The inverse round undoes the forward round (R77, R79) -/

/-- The wire `A` of R77. -/
theorem newHi_xor_key (hi lo k : Word) :
    newHi hi lo k ^^^ k = hi ^^^ rotl16 lo (-3) ^^^ rotl16 lo (-8) := by
  rw [newHi_eq]; grind

/-- The wire `B` of R77. -/
theorem newLo_xor_newHi (hi lo nh : Word) :
    newLo hi lo nh ^^^ nh ^^^ rotl16 nh (-3) = lo ^^^ rotl16 hi (-8) := by
  rw [newLo_eq]; grind

theorem newHi_newHi (hi lo k : Word) : newHi (newHi hi lo k) lo k = hi := by
  simp only [newHi_eq]; grind

/-- R77's derivation: the byte exchange of `A` holds `rotl16(hi, -8)` and `lo`, which cancel `B` and
leave a rotation of `lo`. -/
theorem preLo_of_forward (hi lo k : Word) :
    preLo (newHi hi lo k) (newLo hi lo (newHi hi lo k)) k = lo := by
  have hA : rotl16 (newHi hi lo k ^^^ k) (-8) = rotl16 hi (-8) ^^^ rotl16 lo 5 ^^^ lo := by
    rw [newHi_xor_key, rotl16_xor, rotl16_xor, rotl16_rotl16, rotl16_rotl16,
      rotl16_congr (n := -3 + -8) (m := 5) rfl, rotl16_of_emod_eq_zero (n := -8 + -8) rfl]
  have hBA : lo ^^^ rotl16 hi (-8) ^^^ (rotl16 hi (-8) ^^^ rotl16 lo 5 ^^^ lo) = rotl16 lo 5 := by
    grind
  rw [preLo, newLo_xor_newHi, hA, hBA, rotl16_rotl16, rotl16_of_emod_eq_zero rfl]

theorem invRound_fwd (b : Block) (k : Word) : invRound (fwd b k) k = b := by
  rw [invRound_eq, fwd_eq, hiWord_join, loWord_join, preLo_of_forward, newHi_newHi,
    join_hiWord_loWord]

theorem invRound_leftInverse (k : Word) : Function.LeftInverse (invRound · k) (fwd · k) :=
  fun b => invRound_fwd b k

/-- An injection of the finitely many Blocks into themselves is a bijection. -/
theorem fwd_bijective (k : Word) : Function.Bijective (fwd · k) :=
  Finite.injective_iff_bijective.1 (invRound_leftInverse k).injective

/-- A left inverse of a bijection is its inverse on both sides. -/
theorem fwd_invRound (b : Block) (k : Word) : fwd (invRound b k) k = b :=
  (invRound_leftInverse k).rightInverse_of_surjective (fwd_bijective k).surjective b

/-! ### The forward round over XOR and rotation (R80) -/

theorem hiWord_xor (b c : Block) : hiWord (b ^^^ c) = hiWord b ^^^ hiWord c :=
  BitVec.extractLsb'_xor

theorem loWord_xor (b c : Block) : loWord (b ^^^ c) = loWord b ^^^ loWord c :=
  BitVec.extractLsb'_xor

theorem join_xor (h h' l l' : Word) : join (h ^^^ h') (l ^^^ l') = join h l ^^^ join h' l' :=
  BitVec.xor_append.symm

theorem newHi_xor (hi hi' lo lo' k k' : Word) :
    newHi (hi ^^^ hi') (lo ^^^ lo') (k ^^^ k') = newHi hi lo k ^^^ newHi hi' lo' k' := by
  simp only [newHi_eq, rotl16_xor]; ac_rfl

theorem newLo_xor (hi hi' lo lo' nh nh' : Word) :
    newLo (hi ^^^ hi') (lo ^^^ lo') (nh ^^^ nh') = newLo hi lo nh ^^^ newLo hi' lo' nh' := by
  simp only [newLo_eq, rotl16_xor]; ac_rfl

/-- The forward round is linear over XOR in the Block and the key together. -/
theorem fwd_xor (b c : Block) (k l : Word) : fwd (b ^^^ c) (k ^^^ l) = fwd b k ^^^ fwd c l := by
  simp only [fwd_eq, hiWord_xor, loWord_xor, newHi_xor, newLo_xor, join_xor]

theorem newHi_zeroHalves (k : Word) : newHi 0 0 k = k := by
  rw [newHi_eq, rotl16_zeroWord, rotl16_zeroWord]; simp

theorem newLo_zeroHalves (nh : Word) : newLo 0 0 nh = nh ^^^ rotl16 nh (-3) := by
  rw [newLo_eq, rotl16_zeroWord]; simp

theorem fwd_zeroBlock (k : Word) : fwd 0 k = join k (k ^^^ rotl16 k (-3)) := by
  have hhi : hiWord 0 = 0 := rfl
  have hlo : loWord 0 = 0 := rfl
  rw [fwd_eq, hhi, hlo, newHi_zeroHalves, newLo_zeroHalves]

theorem rotl16_comm (x : Word) (a b : Int) : rotl16 (rotl16 x a) b = rotl16 (rotl16 x b) a := by
  rw [rotl16_rotl16, rotl16_rotl16, Int.add_comm]

theorem newHi_rotl16 (hi lo k : Word) (a : Int) :
    newHi (rotl16 hi a) (rotl16 lo a) (rotl16 k a) = rotl16 (newHi hi lo k) a := by
  simp only [newHi_eq, rotl16_xor, rotl16_comm _ a]

theorem newLo_rotl16 (hi lo nh : Word) (a : Int) :
    newLo (rotl16 hi a) (rotl16 lo a) (rotl16 nh a) = rotl16 (newLo hi lo nh) a := by
  simp only [newLo_eq, rotl16_xor, rotl16_comm _ a]

theorem fwd_rot2 (b : Block) (k : Word) (a : Int) :
    fwd (rot2 b a) (rotl16 k a) = rot2 (fwd b k) a := by
  simp only [fwd_eq, rot2, hiWord_join, loWord_join, newHi_rotl16, newLo_rotl16]

/-! ### The two operations of Format R (R74, R75, R77) -/

@[simp] theorem simonRound_encrypt (m : DecMode) (b : Block) (k : Word) :
    simonRound m b k .encrypt = fwd b k := rfl
@[simp] theorem simonRound_literal_decrypt (b : Block) (k : Word) :
    simonRound .literal b k .decrypt = b := rfl
@[simp] theorem simonRound_intended_decrypt (b : Block) (k : Word) :
    simonRound .intended b k .decrypt = invRound b k := rfl

/-- An evaluation writes the pins `dir` and `state_out` and nothing else. -/
theorem evaluateRound_eq {d : Direction} {s : State} {out : Block}
    (h : simonRound s.decMode s.roundPins.stateIn s.roundPins.roundKey d = out) :
    evaluateRound d s = { s with roundPins := { s.roundPins with dir := d }, stateOut := out } := by
  rw [evaluateRound, h]

theorem exec_roundEnc (s : State) :
    exec .roundEnc s =
      .next { s with
        roundPins := { s.roundPins with dir := .encrypt }
        stateOut := fwd s.roundPins.stateIn s.roundPins.roundKey } := by
  rw [exec_of_effect .roundEnc, evaluateRound_eq (simonRound_encrypt _ _ _)]

theorem exec_roundDec_literal {s : State} (h : s.decMode = .literal) :
    exec .roundDec s =
      .next { s with
        roundPins := { s.roundPins with dir := .decrypt }
        stateOut := s.roundPins.stateIn } := by
  rw [exec_of_effect .roundDec, evaluateRound_eq (by rw [h, simonRound_literal_decrypt])]

theorem exec_roundDec_intended {s : State} (h : s.decMode = .intended) :
    exec .roundDec s =
      .next { s with
        roundPins := { s.roundPins with dir := .decrypt }
        stateOut := invRound s.roundPins.stateIn s.roundPins.roundKey } := by
  rw [exec_of_effect .roundDec, evaluateRound_eq (by rw [h, simonRound_intended_decrypt])]

/-! ### The statements -/

/-- Settles O9: the formula is the forward round's, word by word. -/
theorem roundEncAppliesOneForwardRound : Obligations.RoundEncAppliesOneForwardRound :=
  ⟨exec_roundEnc, fwd_zeroBlock, by decide⟩

/-- Settles O10: an evaluation whose value is the level on `state_in`. -/
theorem literalRoundDecPassesThrough : Obligations.LiteralRoundDecPassesThrough :=
  fun _ h => exec_roundDec_literal h

/-- Settles O11: the formula is the inverse round's, which undoes the forward round. -/
theorem intendedRoundDecUndoesRoundEnc : Obligations.IntendedRoundDecUndoesRoundEnc := by
  refine ⟨fun s h => exec_roundDec_intended h, fun s b h hin => ?_, by decide⟩
  exact ⟨_, exec_roundDec_intended h, (congrArg (invRound · _) hin).trans (invRound_fwd b _)⟩

/-- Settles O12: the inverse round is a left inverse, and the Blocks are finitely many. -/
theorem forwardRoundIsABijection : Obligations.ForwardRoundIsABijection := by
  refine ⟨fwd_bijective, invRound_fwd, fwd_invRound, fun b k => ?_,
    0x68776565#32, 0x1918#16, by decide⟩
  rw [simonRound_encrypt, simonRound_literal_decrypt]

/-- Settles O13: the first two laws are cases of linearity in the Block and the key together. -/
theorem forwardRoundIsAffine : Obligations.ForwardRoundIsAffine := by
  refine ⟨fun b k => ?_, fun b c => ?_, fwd_zeroBlock, fwd_rot2⟩
  · simpa using fwd_xor b 0 0 k
  · simpa using fwd_xor b c 0 0

/-- Settles O14: the branches of `round`, and the level the host's line leaves on `state_out`. -/
theorem roundIsSelectedByDirectionAndMode : Obligations.RoundIsSelectedByDirectionAndMode :=
  ⟨simonRound_encrypt, simonRound_literal_decrypt, simonRound_intended_decrypt,
    presentRound_stateOut⟩

end Sys2Proof.Machine
end

section
/-!
The transitions of the sequencer (42_simon64_cipher_loop.md R83 to R90): what NOP, ENC, DEC and STEP
leave, which key word a STEP reads, and that one of them is always there to take.
-/

namespace Sys2Proof.Machine

/-- Settles O16: the row `000x`, and the effect of NOP. -/
theorem nopKeepsEverything : Obligations.NopKeepsEverything :=
  fun _ d => ⟨(ControlRow.nop d).decodeControl_eq, exec_of_effect (.nop d)⟩

/-- The capture as one update of the state (R85). -/
theorem captureOperands_eq (d : Direction) (s : State) :
    captureOperands d s =
      { s with
        sReg := s.loopPins.blockIn
        kr := s.loopPins.keyIn
        idx := 0
        busy := true
        done := false
        dirr := d
        holdsOperands := true } := by
  rw [captureOperands, memWriteAll_eq, flagsBeginRun]

/-- Settles O17: the row `0010`, and the capture in direction Encrypt. -/
theorem encCapturesAndBeginsAnEncryptRun : Obligations.EncCapturesAndBeginsAnEncryptRun := by
  refine ⟨ControlRow.enc.decodeControl_eq, fun s => ?_⟩
  rw [exec_of_effect .enc, captureOperands_eq]

/-- Settles O18: the row `0011`, and the capture in direction Decrypt. -/
theorem decCapturesAndBeginsADecryptRun : Obligations.DecCapturesAndBeginsADecryptRun := by
  refine ⟨ControlRow.dec.decodeControl_eq, fun s => ?_⟩
  rw [exec_of_effect .dec, captureOperands_eq]

/-! ### The key index (R88) -/

/-- The three low bits of a round index are its remainder modulo 8. -/
theorem ofNat_mod_eight (i : RoundIndex) : BitVec.ofNat 3 (i.toNat % 8) = i.extractLsb' 0 3 := by
  refine BitVec.eq_of_toNat_eq ?_
  rw [BitVec.toNat_ofNat, BitVec.extractLsb'_toNat, Nat.shiftRight_zero, Nat.mod_mod]

/-- Counting down from 31 complements the three low bits. -/
theorem ofNat_countdown_mod_eight (i : RoundIndex) :
    BitVec.ofNat 3 ((31 - i.toNat) % 8) = ~~~(i.extractLsb' 0 3) := by
  have hi : i.toNat < 32 := i.isLt
  refine BitVec.eq_of_toNat_eq ?_
  rw [BitVec.toNat_ofNat, BitVec.toNat_not, BitVec.extractLsb'_toNat, Nat.shiftRight_zero]
  omega

/-- Settles O21: the three lines of `kidx`, and their three bits. -/
theorem keyIndexIsTheLowThreeBits : Obligations.KeyIndexIsTheLowThreeBits := fun i =>
  ⟨(kidx_encrypt · i.toNat), kidx_literal i.toNat .decrypt, kidx_intended_decrypt i.toNat,
    ofNat_mod_eight i, ofNat_countdown_mod_eight i⟩

/-- The key word of a round: the address counts up, or down from 31 in an INTENDED Decrypt. -/
theorem memRead_kidx (key : KeyArray) (m : DecMode) (i : Nat) (d : Direction) :
    memRead key (kidx m i d) = keyAt key (if d = .decrypt ∧ m = .intended then 31 - i else i) := by
  cases d with
  | encrypt => simp [memRead_eq]
  | decrypt => cases m <;> simp [memRead_eq]

/-- Settles O20: the two effects of STEP, with the key word that `kidx` addresses. -/
theorem stepAppliesOneRoundWithTheIndexedKey :
    Obligations.StepAppliesOneRoundWithTheIndexedKey := by
  intro s start dir a rk
  have hvalue : stepValue s = simonRound s.decMode s.sReg rk s.dirr := by
    rw [stepValue, memRead_kidx]; rfl
  have hnext : s.idx + 1 = BitVec.ofNat 5 (s.idx.toNat + 1) := by
    rw [BitVec.ofNat_add, BitVec.ofNat_toNat, BitVec.setWidth_eq]; rfl
  rw [← hvalue, ← hnext]
  by_cases hlast : s.idx = 31
  · rw [if_pos hlast, exec_of_effect (.stepLast start dir hlast)]
  · rw [if_neg hlast, exec_of_effect (.stepMore start dir hlast)]

/-! ### A step of a run, and a step after a RESET (R83, R90) -/

/-- Under any two settings of the pins without a reset a STEP leaves the same core. -/
theorem busyStep_coreOf_eq {s : State} {p q : LoopPins} (hw : s.wasReset = true)
    (hb : s.busy = true) (hp : p.rst = false) (hq : q.rst = false) :
    ∃ t u, step (present p s) = .next t ∧ step (present q s) = .next u ∧ coreOf t = coreOf u := by
  by_cases hlast : s.idx = 31
  · exact ⟨_, _, step_last ⟨rfl, hp⟩ hw hb hlast, step_last ⟨rfl, hq⟩ hw hb hlast,
      by rw [coreOf_hostAdvance, coreOf_hostAdvance]; rfl⟩
  · exact ⟨_, _, step_more ⟨rfl, hp⟩ hw hb hlast, step_more ⟨rfl, hq⟩ hw hb hlast,
      by rw [coreOf_hostAdvance, coreOf_hostAdvance]; rfl⟩

/-- Settles O42: under both settings of the pins the step is a STEP, and leaves the same core. -/
theorem requestDuringARunIsDropped : Obligations.RequestDuringARunIsDropped := by
  intro s p q hw hb hp hq
  obtain ⟨t, u, ht, hu, hcore⟩ := busyStep_coreOf_eq hw hb hp hq
  exact ⟨fetch_busy (s := present p s) rfl hp hw hb, t, u, ht, hu, .of_coreOf_eq hcore,
    (congrArg State.holdsOperands hcore :), (congrArg State.wasReset hcore :)⟩

/-- Settles O45: after a RESET an operation is selected, every operation has an effect, and the
selected one is what the control word decodes to. -/
theorem sequencerIsNeverStuckAfterReset : Obligations.SequencerIsNeverStuckAfterReset := by
  intro s hw
  obtain ⟨i, hsel⟩ := exists_selected (.inr (.inr hw))
  obtain ⟨u, heff⟩ := exists_effect i s
  have hstep := step_of_selected hsel heff
  refine ⟨⟨_, hstep, by rw [hostAdvance_wasReset, heff.wasReset_eq_true hw]⟩, fun ht => ?_⟩
  have hi : decodeControl (controlWord s) = i :=
    Except.ok.inj ((fetch_loop ht (.inl hw)).symm.trans (fetch_of_selected hsel))
  exact ⟨u, hi ▸ exec_of_effect heff, hstep⟩

end Sys2Proof.Machine
end

section
/-!
The function level over XOR and rotation (42_simon64_cipher_loop.md R92, R93, R96, R97). `encrypt`
is linear over XOR in the Block and the key together, so it is its action under the zero key XORed
with the mask. Sixteen zero-key rounds are linear and commute with rotation, so they are known by
what they do to the two Blocks with one low bit set in a half.
-/

namespace Sys2Proof.Machine

/-! ### Rotation of both halves (R80) -/

theorem rot2_xor (b c : Block) (a : Int) : rot2 (b ^^^ c) a = rot2 b a ^^^ rot2 c a := by
  simp only [rot2, hiWord_xor, loWord_xor, rotl16_xor, join_xor]

theorem rot2_join (h l : Word) (a : Int) : rot2 (join h l) a = join (rotl16 h a) (rotl16 l a) := by
  rw [rot2, hiWord_join, loWord_join]

theorem rot2_rot2 (b : Block) (a c : Int) : rot2 (rot2 b a) c = rot2 b (a + c) := by
  simp only [rot2, hiWord_join, loWord_join, rotl16_rotl16]

theorem rot2_of_emod_eq_zero {a : Int} (h : a % 16 = 0) (b : Block) : rot2 b a = b := by
  rw [rot2, rotl16_of_emod_eq_zero h, rotl16_of_emod_eq_zero h, join_hiWord_loWord]

theorem rot2_comm (b : Block) (a c : Int) : rot2 (rot2 b a) c = rot2 (rot2 b c) a := by
  rw [rot2_rot2, rot2_rot2, Int.add_comm]

/-! ### Words and Blocks are spanned by rotations of single bits -/

/-- The word with one bit set, as a rotation of the word 1. -/
theorem rotl16_one_getLsbD {k j : Nat} (hk : k < 16) (hj : j < 16) :
    (rotl16 1#16 k).getLsbD j = decide (j = k) := by
  have hsource : (((j : Int) - k) % 16).toNat = 0 ↔ j = k := by omega
  rw [rotl16_bit _ _ j hj]
  simp [hsource]

theorem lowBits_getLsbD (x : Word) (k : Nat) {j : Nat} (hj : j < 16) :
    ((x.setWidth k).setWidth 16).getLsbD j = (decide (j < k) && x.getLsbD j) := by
  simp only [BitVec.getLsbD_setWidth, hj, decide_true, Bool.true_and]

/-- The bits of a word up to bit `k` are those below it, and then bit `k` itself. -/
theorem lowBits_succ (x : Word) {k : Nat} (hk : k < 16) :
    (x.setWidth (k + 1)).setWidth 16 =
      if x.getLsbD k then (x.setWidth k).setWidth 16 ^^^ rotl16 1#16 k
      else (x.setWidth k).setWidth 16 := by
  refine word_ext fun j hj => ?_
  have hbits := fun n => lowBits_getLsbD x n hj
  by_cases hjk : j = k
  · subst hjk
    cases hbit : x.getLsbD j <;>
      simp [-BitVec.getLsbD_eq_getElem, hbits, rotl16_one_getLsbD hk hj, hbit]
  · have hlt : j < k + 1 ↔ j < k := by omega
    cases hbit : x.getLsbD k <;>
      simp [-BitVec.getLsbD_eq_getElem, hbits, rotl16_one_getLsbD hk hj, hjk, hlt]

/-- What holds of the word 1, and is kept by XOR and rotation, holds of every word. -/
theorem word_induction {P : Word → Prop} (one : P 1#16) (xor : ∀ x y, P x → P y → P (x ^^^ y))
    (rot : ∀ x a, P x → P (rotl16 x a)) (x : Word) : P x := by
  have hlow : ∀ k ≤ 16, P ((x.setWidth k).setWidth 16) := by
    intro k hk
    induction k with
    | zero =>
      have hnone : (x.setWidth 0).setWidth 16 = 1#16 ^^^ 1#16 := by
        rw [BitVec.eq_nil (x.setWidth 0)]; rfl
      exact hnone ▸ xor _ _ one one
    | succ k ih =>
      have hbelow := ih (by omega)
      rw [lowBits_succ x hk]
      split
      · exact xor _ _ hbelow (rot _ _ one)
      · exact hbelow
  simpa using hlow 16 le_rfl

/-- What holds of the low bit of each half, and is kept by XOR and rotation, holds of every
Block. -/
theorem block_induction {P : Block → Prop} (hi : P (join 1#16 0)) (lo : P (join 0 1#16))
    (xor : ∀ b c, P b → P c → P (b ^^^ c)) (rot : ∀ b a, P b → P (rot2 b a)) (b : Block) : P b := by
  have hhigh : ∀ h, P (join h 0) := word_induction hi
    (fun x y hx hy => join_xor x y 0 0 ▸ xor _ _ hx hy)
    (fun x a hx => by rw [← rotl16_zeroWord a, ← rot2_join]; exact rot _ a hx)
  have hlow : ∀ l, P (join 0 l) := word_induction lo
    (fun x y hx hy => join_xor 0 0 x y ▸ xor _ _ hx hy)
    (fun x a hx => by rw [← rotl16_zeroWord a, ← rot2_join]; exact rot _ a hx)
  have hhalves : join (hiWord b) 0 ^^^ join 0 (loWord b) = b := by
    rw [← join_xor]; simp
  exact hhalves ▸ xor _ _ (hhigh (hiWord b)) (hlow (loWord b))

/-! ### Keys -/

theorem keyAt_xorKey (key other : KeyArray) (i : Nat) :
    keyAt (xorKey key other) i = keyAt key i ^^^ keyAt other i := by
  simp [keyAt, xorKey]

theorem keyAt_zeroKey (i : Nat) : keyAt zeroKey i = 0 := by
  have h : ∀ j : Fin 8, zeroKey[j] = 0 := by decide
  exact h ⟨i % 8, Nat.mod_lt i (by decide)⟩

theorem zeroKey_xorKey (key : KeyArray) : xorKey zeroKey key = key := by
  ext i hi : 1
  rw [← keyAt_of_lt _ i hi, ← keyAt_of_lt key i hi, keyAt_xorKey, keyAt_zeroKey]
  exact BitVec.zero_xor

/-! ### Rounds over XOR, rotation and time -/

theorem encryptRounds_succ (p : Block) (key : KeyArray) (j : Nat) :
    encryptRounds p key (j + 1) = fwd (encryptRounds p key j) (keyAt key j) :=
  congrArg (fwd _) (keyAt_mod key j)

theorem encryptRounds_xor (p q : Block) (key other : KeyArray) (j : Nat) :
    encryptRounds (p ^^^ q) (xorKey key other) j =
      encryptRounds p key j ^^^ encryptRounds q other j := by
  induction j with
  | zero => rfl
  | succ j ih => simp only [encryptRounds_succ, ih, keyAt_xorKey, fwd_xor]

/-- The rounds commute with a rotation of the Block and of every key word (R80). -/
theorem encryptRounds_rot2 {key rotated : KeyArray} {a : Int}
    (h : ∀ i, keyAt rotated i = rotl16 (keyAt key i) a) (p : Block) (j : Nat) :
    encryptRounds (rot2 p a) rotated j = rot2 (encryptRounds p key j) a := by
  induction j with
  | zero => rfl
  | succ j ih => rw [encryptRounds_succ, ih, h, fwd_rot2, ← encryptRounds_succ]

/-- After 16 rounds the key words begin again. -/
theorem encryptRounds_sixteen_add (p : Block) (key : KeyArray) (j : Nat) :
    encryptRounds p key (16 + j) = encryptRounds (encryptRounds p key 16) key j := by
  induction j with
  | zero => rfl
  | succ j ih =>
    have hkey : keyAt key (16 + j) = keyAt key j := by
      rw [← keyAt_mod, show (16 + j) % 8 = j % 8 by omega, keyAt_mod]
    rw [← Nat.add_assoc, encryptRounds_succ p key (16 + j), ih, hkey, ← encryptRounds_succ]

/-! ### The zero key -/

theorem zeroRounds_xor (p q : Block) (j : Nat) :
    encryptRounds (p ^^^ q) zeroKey j =
      encryptRounds p zeroKey j ^^^ encryptRounds q zeroKey j := by
  rw [← encryptRounds_xor, zeroKey_xorKey]

theorem zeroRounds_rot2 (p : Block) (a : Int) (j : Nat) :
    encryptRounds (rot2 p a) zeroKey j = rot2 (encryptRounds p zeroKey j) a :=
  encryptRounds_rot2 (fun i => by rw [keyAt_zeroKey, rotl16_zeroWord]) p j

/-- Sixteen rounds with the zero key exchange the bytes of each half (R96). -/
theorem zeroRounds_sixteen (p : Block) : encryptRounds p zeroKey 16 = rot2 p 8 := by
  induction p using block_induction with
  | hi => decide +kernel
  | lo => decide +kernel
  | xor b c hb hc => rw [zeroRounds_xor, hb, hc, rot2_xor]
  | rot b a hb => rw [zeroRounds_rot2, hb, rot2_comm]

theorem encrypt_zeroKey (p : Block) : encrypt p zeroKey = p := by
  rw [encrypt, encryptRounds_sixteen_add p zeroKey 16, zeroRounds_sixteen, zeroRounds_sixteen,
    rot2_rot2, rot2_of_emod_eq_zero rfl]

/-! ### The mask (R96) -/

theorem encrypt_xor (p q : Block) (key other : KeyArray) :
    encrypt (p ^^^ q) (xorKey key other) = encrypt p key ^^^ encrypt q other :=
  encryptRounds_xor p q key other 32

theorem encrypt_eq_xor_mask (p : Block) (key : KeyArray) : encrypt p key = p ^^^ mask key := by
  calc encrypt p key
      = encrypt (p ^^^ 0) (xorKey zeroKey key) := by rw [zeroKey_xorKey]; simp
    _ = p ^^^ mask key := by rw [encrypt_xor, encrypt_zeroKey, mask]

theorem encrypt_encrypt (p : Block) (key : KeyArray) : encrypt (encrypt p key) key = p := by
  rw [encrypt_eq_xor_mask, encrypt_eq_xor_mask, BitVec.xor_assoc, BitVec.xor_self, BitVec.xor_zero]

/-- Settles O25: linearity takes the Block and the key apart, and the zero key has no effect. -/
theorem encryptIsXorWithTheMask : Obligations.EncryptIsXorWithTheMask :=
  ⟨encrypt_zeroKey, zeroRounds_sixteen, encrypt_eq_xor_mask, encrypt_encrypt⟩

theorem mask_xorKey (key other : KeyArray) : mask (xorKey key other) = mask key ^^^ mask other := by
  rw [mask, mask, mask, ← encrypt_xor]
  exact congrArg (encrypt · _) BitVec.xor_self.symm

/-- Rotating every key word rotates the mask. -/
theorem mask_rotated {key rotated : KeyArray} {a : Int}
    (h : ∀ i, keyAt rotated i = rotl16 (keyAt key i) a) : mask rotated = rot2 (mask key) a := by
  have hzero : rot2 0 a = 0 := by
    change join (rotl16 0 a) (rotl16 0 a) = 0
    rw [rotl16_zeroWord]; rfl
  calc mask rotated
      = encryptRounds (rot2 0 a) rotated 32 := by rw [hzero, mask, encrypt]
    _ = rot2 (mask key) a := encryptRounds_rot2 h 0 32

/-- The key with the word `v` at index `w` and 0 elsewhere (R96). -/
def oneWordKey (w : Nat) (v : Word) : KeyArray := Vector.ofFn fun i => if i.val = w then v else 0

theorem keyAt_oneWordKey (w : Nat) (v : Word) (i : Nat) :
    keyAt (oneWordKey w v) i = if i % 8 = w then v else 0 := by
  simp [keyAt, oneWordKey]

/-- Rotating the one word of such a key rotates all its words. -/
theorem mask_oneWordKey_rotl16 (w : Nat) (v : Word) (a : Int) :
    mask (oneWordKey w (rotl16 v a)) = rot2 (mask (oneWordKey w v)) a := by
  refine mask_rotated fun i => ?_
  rw [keyAt_oneWordKey, keyAt_oneWordKey]
  split
  · rfl
  · exact (rotl16_zeroWord a).symm

/-- The masks of the eight keys with bit 0 of one word set (R96). -/
theorem mask_oneBitKeys :
    (List.range 8).map (fun w => mask (oneWordKey w 0x0001#16)) =
      [0x88888888#32, 0xDDDDCCCC#32, 0x1111BBBB#32, 0x4444CCCC#32,
        0x22222222#32, 0x77773333#32, 0x4444EEEE#32, 0x11113333#32] := by
  decide +kernel

/-- Settles O26: the Block 0 is its own XOR and its own rotation, so the mask follows the key in
both. -/
theorem maskIsLinearInTheKey : Obligations.MaskIsLinearInTheKey :=
  ⟨mask_xorKey, mask_oneBitKeys, fun w b _ => mask_oneWordKey_rotl16 w 0x0001#16 b⟩

/-! ### The round trip (R97) -/

/-- A LITERAL Decrypt passes its operand through. -/
theorem decryptRounds_literal (c : Block) (key : KeyArray) (j : Nat) :
    decryptRounds .literal c key j = c := by
  induction j with
  | zero => rfl
  | succ j ih => rw [decryptRounds, ih]

/-- An INTENDED Decrypt takes back the last round first. -/
theorem decryptRounds_intended_encrypt (p : Block) (key : KeyArray) {j : Nat} (hj : j ≤ 32) :
    decryptRounds .intended (encrypt p key) key j = encryptRounds p key (32 - j) := by
  induction j with
  | zero => rfl
  | succ j ih =>
    have hback : 32 - j = (31 - j) + 1 := by omega
    have hleft : 32 - (j + 1) = 31 - j := by omega
    rw [decryptRounds, ih (by omega), hback, encryptRounds, invRound_fwd, hleft]

theorem decrypt_literal (c : Block) (key : KeyArray) : decrypt .literal c key = c :=
  decryptRounds_literal c key 32

theorem decrypt_intended_encrypt (p : Block) (key : KeyArray) :
    decrypt .intended (encrypt p key) key = p :=
  decryptRounds_intended_encrypt p key le_rfl

/-- Both undo `encrypt`, which undoes itself. -/
theorem decrypt_intended (c : Block) (key : KeyArray) :
    decrypt .intended c key = encrypt c key := by
  rw [← decrypt_intended_encrypt (encrypt c key) key, encrypt_encrypt]

theorem xor_mask_eq_self_iff (p : Block) (key : KeyArray) : p ^^^ mask key = p ↔ mask key = 0 := by
  rw [← BitVec.xor_right_inj p (y := 0)]; simp

/-- Settles O27: in INTENDED the rounds are taken back one by one; in LITERAL none is, and the mask
stays. -/
theorem roundTripHoldsExactlyInIntendedMode : Obligations.RoundTripHoldsExactlyInIntendedMode := by
  refine ⟨decrypt_intended_encrypt, fun c key => ?_, fun p key => ?_, by decide +kernel⟩
  · rw [decrypt_intended, encrypt_eq_xor_mask]
    exact ⟨rfl, rfl⟩
  · rw [decrypt_literal, encrypt_eq_xor_mask]
    exact ⟨rfl, rfl, xor_mask_eq_self_iff p key⟩

end Sys2Proof.Machine
end

section
/-!
Whole runs (42_simon64_cipher_loop.md R91, R94, R97, R98): a request begins one, every driven STEP
takes it to its next state, and the 32nd to its end.
-/

namespace Sys2Proof.Machine

section
variable {d : Direction} {b : Block} {key : KeyArray} {s t : State}

/-- The capture of a request's operands begins a run (R85, R94). -/
theorem captureOperands_inRun (hw : s.wasReset = true) :
    InRun d b key 0 (captureOperands d (present (requestPins d b key) s)) where
  early := by decide
  wasReset := hw
  busy := rfl
  notDone := rfl
  holds := rfl
  index := rfl
  direction := rfl
  keyKept := captureOperands_kr _ _
  value := by cases d <;> rfl

/-- A request to an idle sequencer begins a run (R86, R87). -/
theorem Idle.request (h : Idle s) (d : Direction) (b : Block) (key : KeyArray) :
    ∃ t, step (applyDrive (.loop (requestPins d b key)) s) = .next t ∧ t.decMode = s.decMode ∧
      InRun d b key 0 t := by
  refine ⟨hostAdvance (captureOperands d (present (requestPins d b key) s)), ?_,
    hostAdvance_decMode _, (captureOperands_inRun h.wasReset).of_kept (hostAdvance_kept _)⟩
  cases d with
  | encrypt => exact step_of_selected (.enc ⟨rfl, rfl⟩ h.wasReset h.notBusy rfl rfl) .enc
  | decrypt => exact step_of_selected (.dec ⟨rfl, rfl⟩ h.wasReset h.notBusy rfl rfl) .dec

/-- A driven STEP of a run takes it to its next state, or to its end. -/
theorem InRun.drivenStep {j : Nat} (h : InRun d b key j s) {l : Drive} (hl : noResetLine l = true) :
    ∃ t, step (applyDrive l s) = .next t ∧ t.decMode = s.decMode ∧
      if j = 31 then RunDone d b key t else InRun d b key (j + 1) t := by
  have k := applyDrive_kept l s
  obtain ⟨t, hstep, hmode, ht⟩ := (everyStepOfARunKeepsItsValue _ d b key j (h.of_kept k)).1
    (sequencerTurn_applyDrive hl s)
  exact ⟨t, hstep, hmode.trans k.decMode, ht⟩

/-- Driven STEPs that do not end a run take it on, one state a line. -/
theorem InRun.drivenSteps {j : Nat} (h : InRun d b key j s) {lines : List Drive}
    (hl : ∀ l ∈ lines, noResetLine l = true) (hlt : j + lines.length < 32) :
    ∃ t, runDrives lines s = .next t ∧ t.decMode = s.decMode ∧
      InRun d b key (j + lines.length) t := by
  induction lines generalizing j s with
  | nil => exact ⟨s, rfl, rfl, h⟩
  | cons l rest ih =>
    rw [List.forall_mem_cons] at hl
    rw [List.length_cons] at hlt
    obtain ⟨u, hstep, hmodeU, hu⟩ := h.drivenStep hl.1
    rw [if_neg (by omega)] at hu
    obtain ⟨t, hrun, hmode, ht⟩ := ih hu hl.2 (by omega)
    refine ⟨t, (runDrives_cons_of_step hstep).trans hrun, hmode.trans hmodeU, ?_⟩
    rwa [List.length_cons, Nat.add_comm rest.length, ← Nat.add_assoc]

/-- A request and fewer than 32 STEPs (R94). -/
theorem Idle.runDrives_inRun (h : Idle s) (d : Direction) (b : Block) (key : KeyArray)
    {lines : List Drive} (hl : ∀ l ∈ lines, noResetLine l = true) (hlt : lines.length < 32) :
    ∃ t, runDrives (.loop (requestPins d b key) :: lines) s = .next t ∧ t.decMode = s.decMode ∧
      InRun d b key lines.length t := by
  obtain ⟨u, hstep, hmodeU, hu⟩ := h.request d b key
  obtain ⟨t, hrun, hmode, ht⟩ := hu.drivenSteps hl (by omega)
  rw [Nat.zero_add] at ht
  exact ⟨t, (runDrives_cons_of_step hstep).trans hrun, hmode.trans hmodeU, ht⟩

/-- A request and all 32 STEPs (R94). -/
theorem Idle.runDrives_done (h : Idle s) (d : Direction) (b : Block) (key : KeyArray)
    {lines : List Drive} (hl : ∀ l ∈ lines, noResetLine l = true) (hlen : lines.length = 32) :
    ∃ t, runDrives (.loop (requestPins d b key) :: lines) s = .next t ∧ t.decMode = s.decMode ∧
      RunDone d b key t := by
  obtain rfl | ⟨front, last, rfl⟩ := List.eq_nil_or_concat' lines
  · cases hlen
  have hfront : front.length = 31 := by simpa using hlen
  obtain ⟨u, hrun, hmodeU, hu⟩ := h.runDrives_inRun d b key (lines := front)
    (fun l hmem => hl l (List.mem_append_left _ hmem)) (by omega)
  obtain ⟨t, hstep, hmode, ht⟩ := hu.drivenStep (hl last (by simp))
  rw [if_pos hfront] at ht
  refine ⟨t, ?_, hmode.trans hmodeU, ht⟩
  rw [← List.cons_append, runDrives_append hrun, runDrives_cons_of_step hstep]; rfl

/-! ### The end of a run -/

theorem readBlockOut_of_runDone (h : RunDone d b key t) :
    readBlockOut t = .ok (runResult t.decMode d b key) := by
  rw [readBlockOut_of_done h.wasReset h.done h.holds, h.value]

/-- A run ends in an idle state, so that the next request can follow back to back (R121). -/
theorem RunDone.idle (h : RunDone d b key t) : Idle t := ⟨h.wasReset, h.notBusy, h.index⟩

/-- The operands and `DEC_MODE` determine all registers at the end of a run (R98). -/
theorem RunDone.sameRegisters (hs : RunDone d b key s) (ht : RunDone d b key t)
    (hmode : s.decMode = t.decMode) : SameRegisters s t where
  sReg := by rw [hs.value, ht.value, hmode]
  idx := hs.index.trans ht.index.symm
  busy := hs.notBusy.trans ht.notBusy.symm
  done := hs.done.trans ht.done.symm
  dirr := hs.direction.trans ht.direction.symm
  kr := hs.keyKept.trans ht.keyKept.symm

end

/-- Settles O23: the first `j` lines leave the run in its `j`-th state, and all 32 its result. -/
theorem runComputesTheFunctionLevel : Obligations.RunComputesTheFunctionLevel := by
  intro s d b key lines hidle hlen hl
  constructor
  · intro j hj
    have htake : (lines.take j).length = j := List.length_take_of_le (by omega)
    obtain ⟨t, hrun, hmode, ht⟩ := hidle.runDrives_inRun d b key (lines := lines.take j)
      (fun l hmem => hl l (List.mem_of_mem_take hmem)) (by omega)
    exact ⟨t, hrun, hmode, htake ▸ ht⟩
  · obtain ⟨t, hrun, hmode, ht⟩ := hidle.runDrives_done d b key hl hlen
    exact ⟨t, hrun, hmode, ht, hmode ▸ readBlockOut_of_runDone ht⟩

/-- Settles O24: both runs end with the result of the same operands in the same mode. -/
theorem resultDependsOnOperandsOnly : Obligations.ResultDependsOnOperandsOnly := by
  intro s s' d b key lines lines' hidle hidle' hmodes hlen hlen' hl hl'
  obtain ⟨t, hrun, hmode, ht⟩ := hidle.runDrives_done d b key hl hlen
  obtain ⟨t', hrun', hmode', ht'⟩ := hidle'.runDrives_done d b key hl' hlen'
  have hsame : t.decMode = t'.decMode := hmode.trans (hmodes.trans hmode'.symm)
  exact ⟨t, t', hrun, hrun', ht.sameRegisters ht' hsame, by
    rw [readBlockOut_of_runDone ht, readBlockOut_of_runDone ht', hsame]⟩

/-- Settles O28: the first run ends idle with the ciphertext, which the second run decrypts. -/
theorem decryptRunAfterEncryptRun : Obligations.DecryptRunAfterEncryptRun := by
  intro s p key lines lines' hidle hlen hlen' hl hl'
  obtain ⟨u, hrunU, hmodeU, hu⟩ := hidle.runDrives_done .encrypt p key hl hlen
  obtain ⟨t, hrun, hmode, ht⟩ := hu.idle.runDrives_done .decrypt (encrypt p key) key hl' hlen'
  have hread : readBlockOut t = .ok (decrypt s.decMode (encrypt p key) key) := by
    rw [readBlockOut_of_runDone ht, hmode, hmodeU, runResult]
  refine ⟨t, (runDrives_append hrunU).trans hrun, fun hintended => ?_, fun hliteral => ?_⟩
  · rw [hread, hintended, decrypt_intended_encrypt]
  · rw [hread, hliteral, decrypt_literal]

end Sys2Proof.Machine
end

section
/-!
RESET and start-up (70_reset_and_hazards.md R113 to R116): what every RESET leaves (`Cleared`), that
each sequencer step with `rst = 1` is one, and the two ends of a run.
-/

namespace Sys2Proof.Machine

/-- What RESET leaves: the idle state, without a result and with no operand held (R113). -/
structure Cleared (s : State) : Prop extends Idle s where
  notDone : s.done = false
  nothingHeld : s.holdsOperands = false

section
variable {s t : State}

theorem Cleared.of_kept (h : Cleared s) (k : CoreKept s t) : Cleared t where
  wasReset := k.wasReset.trans h.wasReset
  notBusy := k.registers.busy.symm.trans h.notBusy
  atZero := k.registers.idx.symm.trans h.atZero
  notDone := k.registers.done.symm.trans h.notDone
  nothingHeld := k.holdsOperands.trans h.nothingHeld

/-- Whatever the state before it, RESET clears the sequencer (R113). -/
theorem Effect.reset_cleared {busy start : Bool} {dir : Direction}
    (h : Effect s (.reset busy start dir) t) : Cleared t := by
  cases h
  exact ⟨⟨rfl, rfl, rfl⟩, rfl, rfl⟩

/-- Every sequencer step with `rst = 1` takes RESET, before the first one too (R115, R116). -/
theorem step_reset (ht : s.target = .loop) (hr : s.loopPins.rst = true) :
    ∃ t, step s = .next t ∧ Cleared t :=
  have hreset := Effect.reset s.busy s.loopPins.start s.loopPins.dir
  ⟨_, step_of_selected (.reset ht hr) hreset, hreset.reset_cleared.of_kept (hostAdvance_kept _)⟩

/-- A line with `rst = 1` clears the sequencer, whatever else is on the pins (R115). -/
theorem drivenReset (s : State) {p : LoopPins} (hp : p.rst = true) :
    ∃ t, step (applyDrive (.loop p) s) = .next t ∧ Cleared t :=
  step_reset (s := present p s) rfl hp

/-- One or more lines with `rst = 1` clear the sequencer (R115). -/
theorem runDrives_resets {p : LoopPins} {rest : List LoopPins} (hp : p.rst = true)
    (hrest : ∀ q ∈ rest, q.rst = true) :
    ∃ t, runDrives ((p :: rest).map .loop) s = .next t ∧ Cleared t := by
  induction rest generalizing p s with
  | nil =>
    obtain ⟨t, hstep, ht⟩ := drivenReset s hp
    exact ⟨t, runDrives_cons_of_step hstep, ht⟩
  | cons q rest ih =>
    rw [List.forall_mem_cons] at hrest
    obtain ⟨u, hstep, -⟩ := drivenReset s hp
    obtain ⟨t, hrun, ht⟩ := ih hrest.1 hrest.2
    exact ⟨t, (runDrives_cons_of_step hstep).trans hrun, ht⟩

end

/-- Settles O31: each line is a RESET, and a RESET clears the sequencer from every state. -/
theorem resetHasPriorityOverEverything : Obligations.ResetHasPriorityOverEverything := by
  intro s pins hne hp
  obtain ⟨p, rest, rfl⟩ := List.exists_cons_of_ne_nil hne
  rw [List.forall_mem_cons] at hp
  obtain ⟨t, hrun, ht⟩ := runDrives_resets (s := s) hp.1 hp.2
  exact ⟨t, hrun, ht.toIdle, ht.notDone, ht.nothingHeld, readBlockOut_of_notDone ht.notDone⟩

/-- Settles O32: a step of a run is an evaluation of `simon64_round`, a RESET, the last STEP or an
earlier one, and only the second and the third clear `BUSY`. -/
theorem onlyItsLastStepOrResetEndsARun : Obligations.OnlyItsLastStepOrResetEndsARun := by
  intro s hw hb
  cases ht : s.target with
  | round =>
    exact ⟨_, step_round ht, by simp [hb], fun hturn => (nomatch ht.symm.trans hturn.1), nofun⟩
  | loop =>
    cases hr : s.loopPins.rst with
    | true =>
      obtain ⟨t, hstep, hcleared⟩ := step_reset ht hr
      exact ⟨t, hstep, iff_of_true hcleared.notBusy ⟨rfl, .inl rfl⟩,
        fun hturn => (nomatch hr.symm.trans hturn.2),
        fun _ _ => ⟨hcleared.notDone, hcleared.nothingHeld,
          readBlockOut_of_notDone hcleared.notDone⟩⟩
    | false =>
      by_cases hi : s.idx = 31
      · exact ⟨_, step_last ⟨ht, hr⟩ hw hb hi, iff_of_true (by simp) ⟨rfl, .inr hi⟩, by simp, nofun⟩
      · exact ⟨_, step_more ⟨ht, hr⟩ hw hb hi, iff_of_false (by simp [hb]) (·.2.elim nofun hi),
          fun _ hlast => absurd hlast hi, nofun⟩

/-- Every control word with `rst = 1` lies in the row of RESET (R49). -/
theorem decodeControl_of_rst {w : BitVec 4} (h : w.getLsbD 3 = true) :
    decodeControl w = .reset (w.getLsbD 2) (w.getLsbD 1) (dirOfBit (w.getLsbD 0)) := by
  conv_lhs => rw [eq_controlBits w, h]
  exact (ControlRow.reset _ _ _).decodeControl_eq

/-- Settles O30: RESET clears the sequencer, and writes neither a pin nor the configuration. -/
theorem resetBringsTheSequencerToIdle : Obligations.ResetBringsTheSequencerToIdle := by
  refine ⟨fun w h => ⟨_, _, _, decodeControl_of_rst h⟩, fun s busy start dir => ?_⟩
  have hreset : Effect s _ _ := .reset busy start dir
  have hcleared := hreset.reset_cleared
  exact ⟨_, exec_of_effect hreset, hcleared.notBusy, hcleared.notDone, hcleared.atZero,
    hcleared.nothingHeld, hcleared.wasReset, rfl, rfl, rfl, rfl, rfl, rfl⟩

/-- Before the first RESET a sequencer step with `rst = 0` is stuck (R116). -/
theorem step_stuck {s : State} (hturn : SequencerTurn s) (hw : s.wasReset = false) :
    step s = .fault .noTransitionBeforeReset :=
  step_of_fetch_error (fetch_stuck hturn.1 hturn.2 hw)

/-- Before the first RESET no output pin of the loop shows a value (R116). -/
theorem reads_of_notReset {s : State} (hw : s.wasReset = false) :
    readBusy s = .error .pinHasNoValue ∧ readDone s = .error .pinHasNoValue ∧
      readBlockOut s = .error .pinHasNoValue := by
  simp [readBusy, readDone, readBlockOut, hw]

/-- Settles O33: without a reset nothing can be fetched, and RESET asks nothing of the state. -/
theorem stuckUntilTheFirstReset : Obligations.StuckUntilTheFirstReset := by
  intro s hw
  refine ⟨fun p hp => step_stuck (s := present p s) ⟨rfl, hp⟩ hw, fun p hp => ?_,
    reads_of_notReset hw⟩
  obtain ⟨t, hstep, ht⟩ := drivenReset s hp
  exact ⟨t, hstep, ht.toIdle⟩

end Sys2Proof.Machine
end
